-- ==== Sys2Proof/Word.lean ====
section
/-! DEFINITION. The word types of the Ecquin: 64-bit registers and addresses, 32-bit lanes and syllables, bytes. -/

namespace Sys2Proof

/-- A scalar register, an address, a CSR (R53, R55). -/
abbrev Word := BitVec 64

/-- A syllable, a vector lane, an accumulator element (R62, R53). -/
abbrev Half := BitVec 32

/-- One byte of memory (R10). -/
abbrev Byte := BitVec 8

/-- A vector register: 64 lanes of 32 bits, lane i in bits 32i+31 to 32i (R162). -/
abbrev VReg := BitVec 2048

/-- A shape register as 64 bytes (R53, R368): base in word 0, element size code in bits 66..64, bounds n0-n5 as
16-bit fields from bit 128, strides d0-d5 as 32-bit fields from bit 256 (log 7). -/
abbrev ShapeBits := BitVec 512

/-- A scale buffer: 512 bytes, byte i in bits 8i+7 to 8i (R220). -/
abbrev ScaleBuf := BitVec 4096

end Sys2Proof
end

