-- ==== Sys2Proof/Syntax.lean ====
section
/-! DEFINITION. The instructions of Nolesh and the steps of the device: one constructor per row of the opcode table. A
syllable's constructor holds its operand fields as the opcode table names them; E and Y belong to the bundle (R62, R65)
and stand in Syl. The rows without an encoding are events, host commands and engine steps; a context is named by its index
256*die + 32*cluster + 4*core + context, a core by that index over 4. -/

namespace Sys2Proof

/-- The slots in the order of R64, with the numbers of R365. -/
inductive Slot where
  | s0 | s1 | v | ma | mb | t | x | k
  deriving DecidableEq, Repr, Inhabited

/-- What the host's translation agent answers (R398): a page of code size (0: 4 KiB, 1: 2 MiB, 2: 1 GiB) at a target in
the model's physical numbering (log 5), a page that is not present, or a failure. -/
inductive AtsReply where
  | granted (target : Nat) (size : BitVec 2) (read write : Bool)
  | absent
  | failed
  deriving DecidableEq, Repr

/-- A mailbox command: its eight words (R386). -/
structure Command where
  w0 : Word
  w1 : Word
  w2 : Word
  w3 : Word
  w4 : Word
  w5 : Word
  w6 : Word
  w7 : Word
  deriving DecidableEq, Repr

/-- What a request from the Caravan fabric asks for, with what one move or message of a sender has at the device (R196, R407): runs of
bytes read, runs of bytes written, Fold inputs of a size in bytes, each at its aperture offset; the inputs of a reduction with its operation, scale,
group and contributor count (R408), a Flow move, a token, at the offset of the request. -/
inductive FabricOp where
  | read (runs : List (Nat × Nat))
  | write (runs : List (Nat × List Byte))
  | fold (size : Nat) (inputs : List (Nat × Word))
  | reduce (op : Nat) (scale : BitVec 8) (group count : Nat) (inputs : List Word)
  | flowWrite (producer : Nat) (bytes : List Byte)
  | flowRead (n : Nat)
  | endOfStream (producer : Nat)
  deriving DecidableEq, Repr

/-- A request arriving through the fabric (R405, R407): the sender's fabric key and the aperture offset. -/
structure FabricReq where
  source : Nat
  key    : BitVec 32
  offset : Nat
  op     : FabricOp
  deriving DecidableEq, Repr

/-- One constructor per row of the opcode table. -/
inductive Instr where
  /-- ADD (R121): Adds two scalar registers modulo 2^64, or modulo 2^32 with sign extension when w is set. -/
  | add (g d a b : BitVec 5) (w : BitVec 1)
  /-- SUB (R121): Subtracts sb from sa modulo 2^64, or in 32 bits when w is set. -/
  | sub (g d a b : BitVec 5) (w : BitVec 1)
  /-- AND (R121): Bitwise AND of two scalar registers. -/
  | and (g d a b : BitVec 5) (w : BitVec 1)
  /-- OR (R121): Bitwise OR of two scalar registers. -/
  | or (g d a b : BitVec 5) (w : BitVec 1)
  /-- XOR (R121): Bitwise XOR of two scalar registers. -/
  | xor (g d a b : BitVec 5) (w : BitVec 1)
  /-- ANDN (R121): Computes a AND NOT b. -/
  | andn (g d a b : BitVec 5) (w : BitVec 1)
  /-- SHL (R121): Shifts a left by the low bits of b. -/
  | shl (g d a b : BitVec 5) (w : BitVec 1)
  /-- SHR (R121): Shifts a right logically by the low bits of b. -/
  | shr (g d a b : BitVec 5) (w : BitVec 1)
  /-- SAR (R121): Shifts a right arithmetically by the low bits of b. -/
  | sar (g d a b : BitVec 5) (w : BitVec 1)
  /-- MUL (R121): Multiplies two registers, keeping the low bits. -/
  | mul (g d a b : BitVec 5) (w : BitVec 1)
  /-- MULH (R121): Returns the high half of the signed product. -/
  | mulh (g d a b : BitVec 5) (w : BitVec 1)
  /-- MULHZ (R121): Returns the high half of the unsigned product. -/
  | mulhz (g d a b : BitVec 5) (w : BitVec 1)
  /-- DIV (R122): Signed division truncating toward zero, with defined results for zero divisors. -/
  | div (g d a b : BitVec 5) (w : BitVec 1)
  /-- DIVZ (R122): Unsigned division. -/
  | divz (g d a b : BitVec 5) (w : BitVec 1)
  /-- REM (R122): Signed remainder taking the sign of a. -/
  | rem (g d a b : BitVec 5) (w : BitVec 1)
  /-- REMZ (R122): Unsigned remainder. -/
  | remz (g d a b : BitVec 5) (w : BitVec 1)
  /-- MIN (R121): Signed minimum of two registers. -/
  | min (g d a b : BitVec 5) (w : BitVec 1)
  /-- MAX (R121): Signed maximum of two registers. -/
  | max (g d a b : BitVec 5) (w : BitVec 1)
  /-- MINZ (R121): Unsigned minimum of two registers. -/
  | minz (g d a b : BitVec 5) (w : BitVec 1)
  /-- MAXZ (R121): Unsigned maximum of two registers. -/
  | maxz (g d a b : BitVec 5) (w : BitVec 1)
  /-- SADD (R123): Computes (a << k) + b with k from 1 to 4. -/
  | sadd (d a b : BitVec 5) (k : BitVec 2)
  /-- CLZ (R121): Counts the leading zero bits of a. -/
  | clz (g d a : BitVec 5) (w : BitVec 1)
  /-- POPC (R121): Counts the one bits of a. -/
  | popc (g d a : BitVec 5) (w : BitVec 1)
  /-- SEXT (R124): Sign-extends the low 8, 16 or 32 bits of a. -/
  | sext (g d a : BitVec 5) (s : BitVec 2)
  /-- ZEXT (R124): Zero-extends the low 8, 16 or 32 bits of a. -/
  | zext (g d a : BitVec 5) (s : BitVec 2)
  /-- SEL (R125): Selects a or b by bit 0 of a predicate. -/
  | sel (d a b : BitVec 5) (p : BitVec 4)
  /-- CMP (R128): Compares two registers under a condition and writes a predicate, optionally with its complement. -/
  | cmp (p c : BitVec 4) (a b : BitVec 5) (u w : BitVec 1)
  /-- CMPI (R129): Compares a register with a sign-extended 9-bit immediate and writes a predicate. -/
  | cmpi (p : BitVec 4) (c : BitVec 3) (a : BitVec 5) (i : BitVec 9)
  /-- PLOG (R130): Combines two predicates by one of eight logical operations. -/
  | plog (d a b : BitVec 4) (o : BitVec 3)
  /-- MOVP (R125): Moves all 64 bits between a scalar register and a predicate, in the direction dir selects. -/
  | movp (r : BitVec 1) (x : BitVec 5) (p : BitVec 4)
  /-- ADDI (R126): Adds a sign-extended 11-bit immediate. -/
  | addi (d a : BitVec 5) (i : BitVec 11)
  /-- ANDI (R126): ANDs with a sign-extended immediate. -/
  | andi (d a : BitVec 5) (i : BitVec 11)
  /-- ORI (R126): ORs with a sign-extended immediate. -/
  | ori (d a : BitVec 5) (i : BitVec 11)
  /-- XORI (R126): XORs with a sign-extended immediate. -/
  | xori (d a : BitVec 5) (i : BitVec 11)
  /-- SHLI (R126): Shifts left by an immediate amount 0 to 63. -/
  | shli (d a : BitVec 5) (s : BitVec 6)
  /-- SHRI (R126): Shifts right logically by an immediate amount. -/
  | shri (d a : BitVec 5) (s : BitVec 6)
  /-- SARI (R126): Shifts right arithmetically by an immediate amount. -/
  | sari (d a : BitVec 5) (s : BitVec 6)
  /-- MULI (R126): Multiplies by a sign-extended immediate. -/
  | muli (d a : BitVec 5) (i : BitVec 11)
  /-- LIL (R127): Writes a sign-extended 16-bit immediate to the whole register. -/
  | lil (d : BitVec 5) (i : BitVec 16)
  /-- LIH (R127): Writes a 16-bit immediate into bits 31:16, keeping the rest. -/
  | lih (d : BitVec 5) (i : BitVec 16)
  /-- LIU (R127): Writes a 16-bit immediate into bits 47:32, keeping the rest. -/
  | liu (d : BitVec 5) (i : BitVec 16)
  /-- LIX (R127): Writes a 16-bit immediate into bits 63:48, keeping the rest. -/
  | lix (d : BitVec 5) (i : BitVec 16)
  /-- LDB (R131): Loads one byte from a scratchpad window with sign extension. -/
  | ldb (d a : BitVec 5) (o : BitVec 8)
  /-- LDBZ (R131): Loads one byte with zero extension. -/
  | ldbz (d a : BitVec 5) (o : BitVec 8)
  /-- LDH (R131): Loads two bytes with sign extension. -/
  | ldh (d a : BitVec 5) (o : BitVec 8)
  /-- LDHZ (R131): Loads two bytes with zero extension. -/
  | ldhz (d a : BitVec 5) (o : BitVec 8)
  /-- LDW (R131): Loads four bytes with sign extension. -/
  | ldw (d a : BitVec 5) (o : BitVec 8)
  /-- LDWZ (R131): Loads four bytes with zero extension. -/
  | ldwz (d a : BitVec 5) (o : BitVec 8)
  /-- LDD (R131): Loads eight bytes from a scratchpad window. -/
  | ldd (d a : BitVec 5) (o : BitVec 8)
  /-- STB (R131): Stores one byte to a scratchpad window. -/
  | stb (s a : BitVec 5) (o : BitVec 8)
  /-- STH (R131): Stores two bytes to a scratchpad window. -/
  | sth (s a : BitVec 5) (o : BitVec 8)
  /-- STW (R131): Stores four bytes to a scratchpad window. -/
  | stw (s a : BitVec 5) (o : BitVec 8)
  /-- STD (R131): Stores eight bytes to a scratchpad window. -/
  | std (s a : BitVec 5) (o : BitVec 8)
  /-- LDF (R259): Acquire load of a tagged word that waits for FULL and leaves the tag FULL. -/
  | ldf (d a : BitVec 5) (o : BitVec 9)
  /-- LDFE (R259): Acquire load of a tagged word that waits for FULL and sets the tag EMPTY. -/
  | ldfe (d a : BitVec 5) (o : BitVec 9)
  /-- STE (R259): Release store that waits for EMPTY, writes the word and tags it FULL. -/
  | ste (s a : BitVec 5) (o : BitVec 9)
  /-- STFL (R259): Release store that writes the word and tags it FULL without waiting. -/
  | stfl (s a : BitVec 5) (o : BitVec 9)
  /-- TAGGET (R260): Reads the tag of a word into a register. -/
  | tagget (d a : BitVec 5) (o : BitVec 9)
  /-- TAGSET (R260): Sets the tag of a word, waking waiters, without ordering data. -/
  | tagset (s a : BitVec 5) (o : BitVec 9)
  /-- SHW (R134): Writes one field of the shadow copy of an engine shape register. -/
  | shw (s h : BitVec 2) (f a : BitVec 5)
  /-- CSRR (R136): Reads a CSR into a scalar register. -/
  | csrr (d : BitVec 5) (c : BitVec 12)
  /-- CSRW (R136): Writes a CSR from a scalar register, with checks on privilege, value and PART changes. -/
  | csrw (a : BitVec 5) (c : BitVec 12)
  /-- B (R145): Guarded relative branch with two delay slots, optionally nullifying them when not taken. -/
  | branch (g : BitVec 5) (n : BitVec 1) (d : BitVec 15)
  /-- JAL (R145): Relative jump that writes a link register, with two delay slots. -/
  | jal (d : BitVec 5) (i : BitVec 16)
  /-- JR (R145): Guarded jump to a register address, with two delay slots. -/
  | jr (g a : BitVec 5)
  /-- VADD (R167): Adds vector lanes under a mask in FP32 or integer types. -/
  | vadd (m : BitVec 4) (t : BitVec 2) (d a b : BitVec 5)
  /-- VSUB (R167): Subtracts vector lanes. -/
  | vsub (m : BitVec 4) (t : BitVec 2) (d a b : BitVec 5)
  /-- VMUL (R167): Multiplies vector lanes. -/
  | vmul (m : BitVec 4) (t : BitVec 2) (d a b : BitVec 5)
  /-- VFMA (R167): Fused multiply-add d + a·b per lane, rounded once. -/
  | vfma (m : BitVec 4) (t : BitVec 2) (d a b : BitVec 5)
  /-- VMIN (R168): Per-lane minimum. -/
  | vmin (m : BitVec 4) (t : BitVec 2) (d a b : BitVec 5)
  /-- VMAX (R168): Per-lane maximum. -/
  | vmax (m : BitVec 4) (t : BitVec 2) (d a b : BitVec 5)
  /-- VABS (R168): Per-lane magnitude. -/
  | vabs (m : BitVec 4) (t : BitVec 2) (d a : BitVec 5)
  /-- VNEG (R168): Per-lane negation. -/
  | vneg (m : BitVec 4) (t : BitVec 2) (d a : BitVec 5)
  /-- VAND (R167): Per-lane bitwise AND. -/
  | vand (m : BitVec 4) (d a b : BitVec 5)
  /-- VOR (R167): Per-lane bitwise OR. -/
  | vor (m : BitVec 4) (d a b : BitVec 5)
  /-- VXOR (R167): Per-lane bitwise XOR. -/
  | vxor (m : BitVec 4) (d a b : BitVec 5)
  /-- VSHL (R167): Per-lane shift left. -/
  | vshl (m : BitVec 4) (d a b : BitVec 5)
  /-- VSHR (R167): Per-lane logical shift right. -/
  | vshr (m : BitVec 4) (d a b : BitVec 5)
  /-- VSAR (R167): Per-lane arithmetic shift right. -/
  | vsar (m : BitVec 4) (d a b : BitVec 5)
  /-- VCMP (R170): Compares lanes and writes a predicate mask. -/
  | vcmp (m : BitVec 4) (t : BitVec 2) (c : BitVec 1) (p : BitVec 4) (a b : BitVec 5)
  /-- VSEL (R169): Selects each lane from va or vb by the mask predicate. -/
  | vsel (m : BitVec 4) (d a b : BitVec 5)
  /-- VCVT (R171): Converts lanes between formats as the vb code names. -/
  | vcvt (m : BitVec 4) (d a c : BitVec 5)
  /-- VQUANT (R172): Quantises blocks of 8 FP32 lanes to narrow codes with E8M0 scales. -/
  | vquant (m : BitVec 4) (d a : BitVec 5) (f : BitVec 2)
  /-- VDEQ (R172): Dequantises narrow codes and scales to FP32 lanes. -/
  | vdeq (m : BitVec 4) (d a : BitVec 5) (f : BitVec 2)
  /-- VRED (R173): Reduces lanes by a fixed pairwise tree into lane 0. -/
  | vred (m : BitVec 4) (t : BitVec 2) (d a o : BitVec 5)
  /-- VSCAN (R173): Forms inclusive prefixes by a fixed doubling order. -/
  | vscan (m : BitVec 4) (t : BitVec 2) (d a o : BitVec 5)
  /-- VEXP2 (R178): Computes 2^x per lane, rounded once. -/
  | vexp2 (m : BitVec 4) (d a : BitVec 5)
  /-- VLOG2 (R178): Computes log2 x per lane. -/
  | vlog2 (m : BitVec 4) (d a : BitVec 5)
  /-- VRCP (R178): Computes 1/x per lane. -/
  | vrcp (m : BitVec 4) (d a : BitVec 5)
  /-- VRSQ (R178): Computes 1/sqrt(x) per lane. -/
  | vrsq (m : BitVec 4) (d a : BitVec 5)
  /-- VSORT (R174): Stably sorts active lanes, writing keys or lane numbers. -/
  | vsort (m : BitVec 4) (t : BitVec 2) (d a : BitVec 5) (x o : BitVec 1)
  /-- VPERM (R175): Permutes lanes of va by indices in vb. -/
  | vperm (m : BitVec 4) (d a b : BitVec 5)
  /-- VBCAST (R175): Broadcasts the low 32 bits of a scalar register to active lanes. -/
  | vbcast (m : BitVec 4) (d a : BitVec 5)
  /-- VGET (R175): Extracts one lane into a scalar register. -/
  | vget (t : BitVec 2) (d a b : BitVec 5)
  /-- VIOTA (R167): Writes each active lane's index. -/
  | viota (m : BitVec 4) (d : BitVec 5)
  /-- VMOV (R167): Copies lanes of va. -/
  | vmov (m : BitVec 4) (d a : BitVec 5)
  /-- VCMUL (R176): Multiplies cx32 lane pairs with each part rounded once. -/
  | vcmul (m : BitVec 4) (d a b : BitVec 5)
  /-- VTWOSUM (R177): Writes the rounded sum and its exact error to a register pair. -/
  | vtwosum (m : BitVec 4) (d a b : BitVec 5)
  /-- VLD (R179): Loads 64 elements from a scratchpad window into a vector register. -/
  | vld (m : BitVec 4) (d a : BitVec 5) (x : BitVec 1) (z : BitVec 2)
  /-- VST (R179): Stores 64 elements of a vector register to a scratchpad window. -/
  | vst (m : BitVec 4) (d a : BitVec 5) (z : BitVec 2)
  /-- VLDX (R180): Gathers 4-byte elements at per-lane offsets. -/
  | vldx (m : BitVec 4) (d a b : BitVec 5)
  /-- VSTX (R180): Scatters 4-byte elements to per-lane offsets. -/
  | vstx (m : BitVec 4) (d a b : BitVec 5)
  /-- VLEND (R182): Lends a vector bank to a matrix engine as A-operand staging. -/
  | vlend (n : BitVec 2) (k : BitVec 1)
  /-- VRECL (R182): Recalls a lent vector bank. -/
  | vrecl (n : BitVec 2)
  /-- VPOPC (R167): Counts the one bits of each lane. -/
  | vpopc (m : BitVec 4) (d a : BitVec 5)
  /-- TRIN (R186): Pushes a row into the transpose buffer, landing at e + 6. -/
  | trin (g : BitVec 4) (v : BitVec 5)
  /-- TRPOP (R186): Pops the next column of the transpose buffer into a register at exactly e + 6. -/
  | trpop (g : BitVec 4) (v : BitVec 5)
  /-- TRCFG (R186): Sets the transpose row count and element size and clears the buffer. -/
  | trcfg (g : BitVec 4) (r : BitVec 6) (s : BitVec 2)
  /-- TRCLR (R186): Clears the transpose buffer and its counts. -/
  | trclr (g : BitVec 4)
  /-- MMA (R233): Pushes A·B from the scratchpad into an accumulator tile, optionally scaled and negated. -/
  | mma (g : BitVec 4) (w : BitVec 1) (t : BitVec 6) (a b : BitVec 2) (z v k : BitVec 1) (p : BitVec 3)
  /-- MMAV (R233): Pushes A from a lent vector bank times B into an accumulator tile. -/
  | mmav (g : BitVec 4) (w : BitVec 1) (t : BitVec 6) (a b : BitVec 2) (z v k : BitVec 1) (p : BitVec 3)
  /-- MCMA (R233): Pushes complex cx32 products into compensated hi/lo pairs of a tile. -/
  | mcma (g : BitVec 4) (w : BitVec 1) (t : BitVec 6) (a b : BitVec 2) (z k : BitVec 1) (p : BitVec 3)
  /-- MZERO (R237): Sets every element of a tile to +0. -/
  | mzero (g : BitVec 4) (t : BitVec 6) (k : BitVec 1)
  /-- MDRAIN (R238): Converts a tile and writes it to the scratchpad, landing at e + 16, optionally zeroing it. -/
  | mdrain (g : BitVec 4) (w : BitVec 1) (t : BitVec 6) (a : BitVec 2) (z k : BitVec 1) (d : BitVec 3)
  /-- MFILL (R237): Copies 64×64 FP32 values from the scratchpad into a tile. -/
  | mfill (g : BitVec 4) (w : BitVec 1) (t : BitVec 6) (a : BitVec 2) (k : BitVec 1)
  /-- MFMT (R243): Sets an engine's format pair from entry c + 2, requiring an MNOP in the next entry. -/
  | mfmt (g : BitVec 4) (a b : BitVec 3) (k : BitVec 1)
  /-- MNOP (R242): Matrix no-operation that meets the MFMT condition. -/
  | mnop (g : BitVec 4) (k : BitVec 1)
  /-- TLD (R208): Asynchronous tile move from memory into the scratchpad. -/
  | tld (g : BitVec 4) (w : BitVec 1) (h : BitVec 2) (a b : BitVec 5) (p : BitVec 4)
  /-- TST (R208): Asynchronous tile move from the scratchpad to memory. -/
  | tst (g : BitVec 4) (w : BitVec 1) (h : BitVec 2) (a b : BitVec 5) (p : BitVec 4)
  /-- TMOV (R208): Asynchronous tile move between any windows. -/
  | tmov (g : BitVec 4) (w : BitVec 1) (h : BitVec 2) (a b : BitVec 5) (p : BitVec 4)
  /-- TMC (R209): Multicasts one footprint into the scratchpads of the cores in a mask. -/
  | tmc (g : BitVec 4) (w : BitVec 1) (h : BitVec 2) (a b : BitVec 5) (p : BitVec 4)
  /-- TLDF (R204): Claims and reads elements of a Flow at the consumer cursor into the scratchpad. -/
  | tldf (g : BitVec 4) (w : BitVec 1) (h : BitVec 2) (a b : BitVec 5) (p : BitVec 4)
  /-- TSTF (R205): Reserves, writes and publishes elements of a Flow. -/
  | tstf (g : BitVec 4) (w : BitVec 1) (h : BitVec 2) (a b : BitVec 5) (p : BitVec 4)
  /-- TACC (R206): Applies scratchpad elements as Fold updates to a Fold object. -/
  | tacc (g : BitVec 4) (w : BitVec 1) (h : BitVec 2) (a b : BitVec 5) (p : BitVec 4)
  /-- SLD (R217): Loads block scale bytes into an engine's scale buffer at exactly e + 6. -/
  | sld (g : BitVec 4) (w : BitVec 1) (h : BitVec 2) (a : BitVec 5) (n : BitVec 1)
  /-- TWAIT (R211): Waits until a completion word is FULL and covered moves are done, then writes a status predicate. -/
  | twait (g : BitVec 4) (a : BitVec 5) (p : BitVec 4)
  /-- TTAG (R218): Sets the tag of every word in a scratchpad range. -/
  | ttag (g : BitVec 4) (h : BitVec 2) (a b : BitVec 5)
  /-- PREQ (R219): Raises page requests for every page of a global range. -/
  | preq (g : BitVec 4) (a b : BitVec 5) (p : BitVec 4)
  /-- LOOP (R152): Starts a hardware loop whose count comes from a scalar register. -/
  | loop (b : BitVec 6) (a : BitVec 5)
  /-- LOOPN (R152): Starts a loop nest whose count and indices come from an X shape register. -/
  | loopn (b : BitVec 6) (h : BitVec 2)
  /-- LOOPP (R153): Starts a software-pipelined loop with stage predicates p8 to p11. -/
  | loopp (b : BitVec 6) (h s : BitVec 2)
  /-- FENCE (R261): Waits until older accesses with homes in the named scope are performed. -/
  | fence (s : BitVec 3)
  /-- ARRIVE (R265): Arrives at a barrier, as a release or relaxed. -/
  | arrive (a : BitVec 5) (r : BitVec 1)
  /-- WAITB (R266): Waits for a barrier phase change or BROKEN and acquires. -/
  | waitb (a : BitVec 5) (p : BitVec 4)
  /-- BARI (R264): Sets a barrier up with a count and scope. -/
  | bari (a b : BitVec 5)
  /-- SPAWN (R294): Builds a task record from a template, increments the join word and pushes it, optionally transferring ownership. -/
  | spawn (t : BitVec 2) (a b : BitVec 5) (o : BitVec 1) (p : BitVec 4)
  /-- SPAWNC (R312): Spawns a speculative child under a condition and sets its likelihood. -/
  | spawnc (t : BitVec 2) (a b c : BitVec 5) (p : BitVec 4)
  /-- END (R297): Retires the task, releasing its effects, returning ownership and decrementing its join word. -/
  | endTask
  /-- CNEW (R309): Allocates the lowest free speculation condition of the die. -/
  | cnew (d : BitVec 5) (p : BitVec 4)
  /-- RESOLVE (R319): Resolves a condition, committing or pruning the tasks that hold it and updating the predictor. -/
  | resolve (a : BitVec 5) (p : BitVec 4)
  /-- RECAST (R199): Changes the role of an object range, draining older accesses to form a device-wide ordering point. -/
  | recast (a b c : BitVec 5)
  /-- HALLOC (R335): Allocates an object through Playa, reclaiming if needed, and returns a strong handle. -/
  | halloc (d a b : BitVec 5) (p : BitVec 4)
  /-- HFREE (R340): Destroys an object whatever its strong count. -/
  | hfree (a : BitVec 5)
  /-- HPIN (R338): Upgrades a weak handle to a strong one if the object is still live. -/
  | hpin (d a : BitVec 5) (p : BitVec 4)
  /-- HDROP (R339): Decrements an object's strong count, destroying it or making it a reclaim candidate at zero. -/
  | hdrop (a : BitVec 5)
  /-- HWEAK (R337): Forms a weak handle from a strong one. -/
  | hweak (d a : BitVec 5)
  /-- HPRIO (R341): Sets an object's reclaim priority. -/
  | hprio (a : BitVec 5) (k : BitVec 4)
  /-- MSEND (R268): Asynchronously sends one value as a tagged release write or one Fold update. -/
  | msend (a b : BitVec 5) (s : BitVec 1)
  /-- EOS (R271): Sends an end-of-stream token for the issuing producer of a Flow. -/
  | eos (a : BitVec 5)
  /-- CHKEQ (R374): Compares two duplicated values, trapping on mismatch and killing on divergence. -/
  | chkeq (a b : BitVec 5)
  /-- TRAP (R160): Raises a precise software trap with a code. -/
  | trap (i : BitVec 16)
  /-- ERET (R357): Returns from a supervisor handler, restoring and resuming the context or freeing it. -/
  | eret
  /-- BRK (R160): Raises a precise breakpoint trap with a code. -/
  | brk (i : BitVec 16)
  /-- YIELD (R161): Gives the core to the next ready context while staying ready. -/
  | yield
  /-- HARVEST (R403): Fences to system scope and logs every dirty translation entry of the PASID. -/
  | harvest
  /-- JOIN (R267): Waits until a join word reaches zero or is BROKEN and acquires. -/
  | join (a : BitVec 5) (p : BitVec 4)
  /-- UNDEFINED_ENCODING_TRAP (R66): A bundle that fails to decode takes no entry and raises a precise undefined-encoding trap. -/
  | undefinedEncodingTrap (c : Nat)
  /-- BUDGET_OVERRUN (R305): Dispatching a bundle that would make the budget charge exceed the budget raises a precise trap. -/
  | budgetOverrun (c : Nat)
  /-- LANDING (R39): A pending register result or exact-landing scratchpad write takes effect at its landing entry. -/
  | landing (c : Nat)
  /-- REDIRECT (R146): A pending branch redirect applies at entry k + 3, ending any active loop. -/
  | redirect (c : Nat)
  /-- LOOP_PASS (R153): A new pass of a loop body begins, setting the stage predicates for LOOPP. -/
  | loopPass (c : Nat)
  /-- LOOP_END (R153): The loop's pass count is exhausted, stage predicates clear and dispatch continues after the body. -/
  | loopEnd (c : Nat)
  /-- INTERLOCKED_COMPLETION (R132): An interlocked access outside the own-core window completes when its value returns or its bytes are written. -/
  | interlockedCompletion (c : Nat)
  /-- MOVE_COMPLETION (R210): A tile move finishes and updates its completion entry, status predicate, tags and ATTN. -/
  | moveCompletion (id : Nat) (err : BitVec 8) (failed : Word)
  /-- MSEND_DELIVERY (R268): An MSEND reaches its home and acts as STFL or as one Fold update. -/
  | msendDelivery (id : Nat)
  /-- EOS_ARRIVAL (R271): An end-of-stream token reaches the stream, counting the end or a drop and ending the stream when all have arrived. -/
  | eosArrival (id : Nat)
  /-- TAGGED_WAKE (R259): A waiting tagged access acts on the new tag when another party changes it. -/
  | taggedWake (c : Nat)
  /-- WAITB_WAKE (R266): A waiting WAITB completes on a phase change or a BROKEN barrier. -/
  | waitbWake (c : Nat)
  /-- JOIN_WAKE (R267): A waiting JOIN completes when its word reaches zero or becomes BROKEN. -/
  | joinWake (c : Nat)
  /-- TWAIT_WAKE (R211): A waiting TWAIT completes when its completion word becomes FULL and covered operations are done. -/
  | twaitWake (c : Nat)
  /-- ORDERING_POINT (R199): Once RECAST's drain ends, the new role takes effect atomically and caches are cleared. -/
  | orderingPoint (c : Nat)
  /-- RECLAIM_WAKE (R345): A HALLOC waiting on reclaim continues once the destroyed objects have drained. -/
  | reclaimWake (c : Nat)
  /-- TASK_START (R302): The sequencer chooses a startable task for a free context and starts it. -/
  | taskStart (c : Nat)
  /-- STEAL (R300): An idle core's steal unit takes half the eligible records of a victim deque. -/
  | steal (thief victim : Nat)
  /-- PRELOAD (R304): The sequencer preloads a queued task's prelude before a context is free. -/
  | preload (core uid : Nat)
  /-- PREEMPTION_REQUEST (R371): A pre-emption request from the command processor, PREEMPT.REQ or the sequencer saves the context at its pre-emption point. -/
  | preemptionRequest (c : Nat)
  /-- RESUME (R371): A saved task is restored into a free context and its in-flight record reinjected. -/
  | resume (uid c : Nat)
  /-- IMPRECISE_FAULT (R359): An error detected after issue stops the context within its skid and records a fatal fault. -/
  | impreciseFault (c : Nat) (cls sub : BitVec 8) (addr : Word)
  /-- RETURN_TO_POOL (R346): Once INFLIGHT reaches zero the destroyed object's memory and slot return to the pool. -/
  | returnToPool (die slot : Nat)
  /-- WATERMARK_RECLAIM (R344): Free bytes below LOW start background reclaim until HIGH is reached. -/
  | watermarkReclaim (die : Nat)
  /-- LAUNCH_COMPLETION (R394): When a launch's join words reach zero the command processor resolves conditions, drains writes, logs dirty bits and writes the completion record. -/
  | launchCompletion (launch : Nat)
  /-- MSI_X_MESSAGE (R391): An armed vector sends one MSI-X message when its pending count or coalescing window is reached. -/
  | msiXMessage (fn vec : Nat)
  /-- TRANSLATION_RESPONSE (R398): An ATS response fills a translation entry, faults the access, or marks the page not present. -/
  | translationResponse (die : Nat) (pasid : BitVec 20) (page : Nat) (write : Bool) (reply : AtsReply)
  /-- PAGE_REQUEST_RESPONSE (R400): A host response to a page request replays the page's parked stores or denies them. -/
  | pageRequestResponse (pasid : BitVec 20) (page : Nat) (success : Bool)
  /-- INVALIDATION_REQUEST (R399): An ATS Invalidation Request removes matching entries, drains their accesses, logs dirty bits and sends the completion. -/
  | invalidationRequest (pasid : BitVec 20) (start len : Nat)
  /-- DIRTY_LOG_SWEEP (R402): Every 2^19 ticks a sweep writes all dirty translation entries to the dirty log. -/
  | dirtyLogSweep
  /-- FABRIC_ACCESS (R407): A window 0x1 access arriving at the home device is checked against the export table and performed. -/
  | fabricAccess (req : FabricReq)
  /-- MERGED_UPDATE (R408): A reduction merged by the fabric switches arrives at home and is applied as one Fold update per element. -/
  | mergedUpdate (req : FabricReq)
  /-- BAR4_ACCESS (R382): A host read or write to the HBM aperture completes with Unsupported Request. -/
  | bar4Access (write : Bool) (offset : Nat)
  /-- TAIL (R385): A host write of TAIL makes commands in the ring available for the mailbox engine. -/
  | tailWrite (fn : Nat) (v : Word)
  /-- CPLHEAD (R385): A host write of CPLHEAD frees completion ring slots. -/
  | cplheadWrite (fn : Nat) (v : Word)
  /-- STATE (R385): A host write of STATE sets RUN and clears REGERR by writing 1. -/
  | stateWrite (fn : Nat) (v : Word)
  /-- VARM (R391): A host write of 1 to VARM arms an MSI-X vector. -/
  | varmWrite (fn vec : Nat) (v : Word)
  /-- REGISTER_WRITE (R385): A host write to any other BAR0 register stores its fields or sets REGERR. -/
  | registerWrite (fn off : Nat) (v : Word)
  /-- COPYIN (R388): Copies bytes from host memory into the device, with optional flag acquire and release. -/
  | copyin (fn : Nat) (cmd : Command)
  /-- COPYOUT (R388): Copies bytes from the device to host memory, with optional flag acquire and release. -/
  | copyout (fn : Nat) (cmd : Command)
  /-- FLAG_WORD_ACQUIRE (R388): A COPYIN or COPYOUT with ACQ continues once its flag word becomes FULL. -/
  | flagWordAcquire (fn : Nat)
  /-- LAUNCH (R393): Checks a launch descriptor, takes launch join words, writes images and places root tasks. -/
  | launch (fn : Nat) (cmd : Command)
  /-- ALLOC (R396): Allocates an object on a named die for the PASID and copies its image. -/
  | alloc (fn : Nat) (cmd : Command)
  /-- FREE (R387): Performs HFREE of an object on behalf of the function. -/
  | freeCommand (fn : Nat) (cmd : Command)
  /-- HARVEST_COMMAND (R403): Logs every dirty translation entry of the command's PASID. -/
  | harvestCommand (fn : Nat) (cmd : Command)
  /-- DLOG (R401): Sets the dirty log of the command's PASID. -/
  | dlog (fn : Nat) (cmd : Command)
  /-- EXPORT (R406): Writes an entry of the device's fabric export table. -/
  | exportCommand (fn : Nat) (cmd : Command)
  /-- REDWIN (R408): Declares a reduction window on a contributing device. -/
  | redwin (fn : Nat) (cmd : Command)
  /-- NOP (R386): Mailbox command with no effect beyond its completion record. -/
  | nopCommand (fn : Nat) (cmd : Command)
  /-- TEARDOWN (R376): Tears down the command's PASID on both dies. -/
  | teardown (fn : Nat) (cmd : Command)
  /-- ATTEST (R410): Writes a signed attestation report for a host nonce. -/
  | attest (fn : Nat) (cmd : Command)
  /-- ASSIGN (R387): Assigns clusters and PASIDs to a function. -/
  | assign (fn : Nat) (cmd : Command)
  /-- CTXCFG (R387): Sets CTL.PART of a core's contexts from their next task start. -/
  | ctxcfg (fn : Nat) (cmd : Command)
  /-- WATERMARK (R387): Sets a die's LOW and HIGH reclaim watermarks. -/
  | watermark (fn : Nat) (cmd : Command)
  /-- FABID (R405): Sets the device's fabric id. -/
  | fabid (fn : Nat) (cmd : Command)
  /-- FKEY (R405): Sets the fabric key of the command's PASID. -/
  | fkey (fn : Nat) (cmd : Command)
  /-- FWLOAD (R409): Verifies a firmware image and writes it to flash for the next reset. -/
  | fwload (fn : Nat) (cmd : Command)
  /-- MALFORMED_COMMAND (R386): A command with an unknown OP completes with status 0x03 and has no effect. -/
  | malformedCommand (fn : Nat) (cmd : Command)
  /-- RESET (R409): At reset the boot ROM verifies firmware and configuration and initialises conditions, predictor and tables. -/
  | reset
  /-- ADDRESS_SPACE_TEARDOWN (R375): An uncorrectable error in a shared structure tears down every PASID it may belong to. -/
  | addressSpaceTeardown (pasids : List (BitVec 20)) (units : List Nat)
  /-- MARGIN_REPLAN (R411): Firmware starts re-planning a die's voltage margins while the die is idle. -/
  | marginReplan (die : Nat)
  /-- REPLAN_COMPLETION (R411): A margin re-plan ends, clearing REPLAN and incrementing EPOCH. -/
  | replanCompletion (die : Nat) (guardBand : BitVec 8)
  /-- ROW_SPARING (R380): Firmware copies an HBM row to a spare, restarting or quarantining on spare errors. -/
  | rowSparing (die row : Nat) (spareError : Bool)
  /-- QUARANTINE_SCRUB (R377): Firmware scrubs a quarantined unit and returns it to the pool if clean. -/
  | quarantineScrub (die unit : Nat) (clean : Bool)
  /-- NO_MNOP (R243): The bundle dispatched at entry c + 1 after an MFMT holds no MNOP for that engine, takes no entry and raises a precise format-drain fault with cause "no MNOP". -/
  | noMnop (c : Nat)
  /-- ROW_COPY_COMPLETION (R380): The firmware copy of an HBM row to its spare completes, the row is remapped and the accesses stalled on it proceed. -/
  | rowCopyCompletion (die row : Nat)
  /-- FUNCTION_LEVEL_RESET (R381): The host issues a PCIe Function Level Reset to PF0 or a virtual function. -/
  | functionLevelReset (fn : Nat)
  deriving DecidableEq, Repr

/-- One syllable of a bundle: an instruction with the E bit (last) and the Y bit (sync) of R62. -/
structure Syl where
  last  : Bool
  sync  : Bool
  instr : Instr
  deriving DecidableEq, Repr

end Sys2Proof
end

