-- ==== Sys2Proof/WellFormed.lean ====
section
/-! DEFINITION. Which operand fields make an instruction: the field values that R67 to R80 and the chapters of the
instructions mark undefined are refused here (R88). Rows without an encoding have no fields to refuse. -/

namespace Sys2Proof

/-- A 4-bit guard, mask or predicate field names p0 to p11 (R67, R68). -/
def predOk (p : BitVec 4) : Bool := p.toNat < 12

/-- A 5-bit guard names p0 to p11; negated p0 is undefined (R67). -/
def guardOk (g : BitVec 5) : Bool := g.toNat % 16 < 12 && g != 16#5

/-- The CSR numbers of R73. -/
def csrOk (n : BitVec 12) : Bool :=
  n.toNat ≤ 6 || (0x10 ≤ n.toNat && n.toNat ≤ 0x2F) || (0x800 ≤ n.toNat && n.toNat ≤ 0x806)

/-- The CSR numbers that a CSRW may name (R73). -/
def csrWritable (n : BitVec 12) : Bool :=
  n.toNat ≤ 1 || n.toNat == 6 || (0x10 ≤ n.toNat && n.toNat ≤ 0x2F) || (0x800 ≤ n.toNat && n.toNat ≤ 0x805)

/-- The legal pairs of R222, by the codes of R77. -/
def mfmtOk (a b : BitVec 3) : Bool :=
  match a.toNat, b.toNat with
  | 0, 0 | 1, 1 | 2, 2 | 5, 5 | 6, 6 => true
  | 3, 3 | 3, 4 | 4, 3 | 4, 4 => true
  | 3, 7 | 4, 7 | 6, 7 => true
  | _, _ => false

/-- The fields of an instruction are defined (R88). -/
def Instr.wf : Instr → Bool
  | .add g _ _ _ _ | .sub g _ _ _ _ | .and g _ _ _ _ | .or g _ _ _ _ | .xor g _ _ _ _ | .andn g _ _ _ _
  | .shl g _ _ _ _ | .shr g _ _ _ _ | .sar g _ _ _ _ | .mul g _ _ _ _ | .mulh g _ _ _ _ | .mulhz g _ _ _ _
  | .div g _ _ _ _ | .divz g _ _ _ _ | .rem g _ _ _ _ | .remz g _ _ _ _ | .min g _ _ _ _ | .max g _ _ _ _
  | .minz g _ _ _ _ | .maxz g _ _ _ _ => guardOk g
  | .clz g _ _ _ | .popc g _ _ _ => guardOk g
  | .sext g _ _ s | .zext g _ _ s => guardOk g && s != 3#2
  | .sel _ _ _ p => predOk p
  | .cmp p c _ _ u _ => predOk p && c.toNat < 12 && !(u == 1#1 && p == 11#4)
  | .cmpi p _ _ _ => predOk p
  | .plog d a b _ => predOk d && predOk a && predOk b
  | .movp _ _ p => predOk p
  | .shw _ _ f _ => f.toNat < 14
  | .csrr _ c => csrOk c
  | .csrw _ c => csrWritable c
  | .branch g _ _ => guardOk g
  | .jr g _ => guardOk g
  | .vadd m _ _ _ _ | .vsub m _ _ _ _ | .vmul m _ _ _ _ | .vmin m _ _ _ _ | .vmax m _ _ _ _ => predOk m
  | .vfma m t _ _ _ => predOk m && t.toNat < 2
  | .vabs m t _ _ | .vneg m t _ _ => predOk m && t.toNat < 2
  | .vand m _ _ _ | .vor m _ _ _ | .vxor m _ _ _ | .vshl m _ _ _ | .vshr m _ _ _ | .vsar m _ _ _ => predOk m
  | .vcmp m _ _ p _ _ => predOk m && predOk p
  | .vsel m _ _ _ => predOk m
  | .vcvt m _ _ c => predOk m && c.toNat ≤ 0x14
  | .vquant m _ _ f | .vdeq m _ _ f => predOk m && f != 3#2
  | .vred m t _ _ o | .vscan m t _ _ o => predOk m && t != 3#2 && o.toNat < 3
  | .vexp2 m _ _ | .vlog2 m _ _ | .vrcp m _ _ | .vrsq m _ _ => predOk m
  | .vsort m t _ _ _ _ => predOk m && t != 3#2
  | .vperm m _ _ _ | .vbcast m _ _ | .viota m _ | .vmov m _ _ | .vcmul m _ _ _ => predOk m
  | .vget t _ _ _ => t == 1#2 || t == 2#2
  | .vtwosum m d _ _ => predOk m && d.toNat % 2 == 0
  | .vld m _ _ x z => predOk m && z != 3#2 && !(x == 1#1 && z == 0#2)
  | .vst m _ _ z => predOk m && z != 3#2
  | .vldx m _ _ _ | .vstx m _ _ _ | .vpopc m _ _ => predOk m
  | .trin g _ | .trpop g _ | .trclr g => predOk g
  | .trcfg g _ s => predOk g && s != 3#2
  | .mma g _ _ _ _ _ _ _ p | .mmav g _ _ _ _ _ _ _ p => predOk g && p.toNat < 2
  | .mcma g _ _ _ _ _ _ p => predOk g && p.toNat < 2
  | .mzero g _ _ => predOk g
  | .mdrain g _ _ _ _ _ d => predOk g && d.toNat < 6
  | .mfill g _ _ _ _ => predOk g
  | .mfmt g a b _ => predOk g && mfmtOk a b
  | .mnop g _ => predOk g
  | .tld g _ _ _ _ p | .tst g _ _ _ _ p | .tmov g _ _ _ _ p | .tmc g _ _ _ _ p | .tldf g _ _ _ _ p
  | .tstf g _ _ _ _ p | .tacc g _ _ _ _ p => predOk g && predOk p
  | .sld g _ _ _ _ => predOk g
  | .twait g _ p => predOk g && predOk p
  | .ttag g _ _ _ => predOk g
  | .preq g _ _ p => predOk g && predOk p
  | .fence s => s != 7#3
  | .waitb _ p => predOk p
  | .spawn _ _ _ _ p | .spawnc _ _ _ _ p => predOk p
  | .cnew _ p | .resolve _ p | .join _ p => predOk p
  | .halloc _ _ _ p => predOk p
  | .hpin _ _ p => predOk p
  | _ => true

end Sys2Proof
end

