-- ==== Sys2Proof/Decode.lean ====
section
/-! DEFINITION. The encoding of syllables and the decoder (R62 to R88). raw decoding picks the row by class, opcode and, for
LD, ST and the tagged formats, the size or mode bits, and takes the fields out; a word is then accepted only when it is the
very word that the row's fields encode, so that every field marked zero is zero, and when the fields are well formed. -/

namespace Sys2Proof

/-- The n bits of a word from bit lo up. -/
def field (w : BitVec 32) (lo n : Nat) : BitVec n := w.extractLsb' lo n

/-- The S-class opcodes (R82). -/
def rawDecodeS (w : BitVec 32) : Option Instr :=
  match (field w 21 6 : BitVec 6).toNat with
  | 0 => some (.add (field w 16 5) (field w 11 5) (field w 6 5) (field w 1 5) (field w 0 1))
  | 1 => some (.sub (field w 16 5) (field w 11 5) (field w 6 5) (field w 1 5) (field w 0 1))
  | 2 => some (.and (field w 16 5) (field w 11 5) (field w 6 5) (field w 1 5) (field w 0 1))
  | 3 => some (.or (field w 16 5) (field w 11 5) (field w 6 5) (field w 1 5) (field w 0 1))
  | 4 => some (.xor (field w 16 5) (field w 11 5) (field w 6 5) (field w 1 5) (field w 0 1))
  | 5 => some (.andn (field w 16 5) (field w 11 5) (field w 6 5) (field w 1 5) (field w 0 1))
  | 6 => some (.shl (field w 16 5) (field w 11 5) (field w 6 5) (field w 1 5) (field w 0 1))
  | 7 => some (.shr (field w 16 5) (field w 11 5) (field w 6 5) (field w 1 5) (field w 0 1))
  | 8 => some (.sar (field w 16 5) (field w 11 5) (field w 6 5) (field w 1 5) (field w 0 1))
  | 9 => some (.mul (field w 16 5) (field w 11 5) (field w 6 5) (field w 1 5) (field w 0 1))
  | 10 => some (.mulh (field w 16 5) (field w 11 5) (field w 6 5) (field w 1 5) (field w 0 1))
  | 11 => some (.mulhz (field w 16 5) (field w 11 5) (field w 6 5) (field w 1 5) (field w 0 1))
  | 12 => some (.div (field w 16 5) (field w 11 5) (field w 6 5) (field w 1 5) (field w 0 1))
  | 13 => some (.divz (field w 16 5) (field w 11 5) (field w 6 5) (field w 1 5) (field w 0 1))
  | 14 => some (.rem (field w 16 5) (field w 11 5) (field w 6 5) (field w 1 5) (field w 0 1))
  | 15 => some (.remz (field w 16 5) (field w 11 5) (field w 6 5) (field w 1 5) (field w 0 1))
  | 16 => some (.min (field w 16 5) (field w 11 5) (field w 6 5) (field w 1 5) (field w 0 1))
  | 17 => some (.max (field w 16 5) (field w 11 5) (field w 6 5) (field w 1 5) (field w 0 1))
  | 18 => some (.minz (field w 16 5) (field w 11 5) (field w 6 5) (field w 1 5) (field w 0 1))
  | 19 => some (.maxz (field w 16 5) (field w 11 5) (field w 6 5) (field w 1 5) (field w 0 1))
  | 20 => some (.sadd (field w 16 5) (field w 11 5) (field w 6 5) (field w 4 2))
  | 21 => some (.clz (field w 16 5) (field w 11 5) (field w 6 5) (field w 0 1))
  | 22 => some (.popc (field w 16 5) (field w 11 5) (field w 6 5) (field w 0 1))
  | 23 => some (.sext (field w 16 5) (field w 11 5) (field w 6 5) (field w 4 2))
  | 24 => some (.zext (field w 16 5) (field w 11 5) (field w 6 5) (field w 4 2))
  | 25 => some (.sel (field w 16 5) (field w 11 5) (field w 6 5) (field w 2 4))
  | 26 => some (.cmp (field w 17 4) (field w 13 4) (field w 8 5) (field w 3 5) (field w 2 1) (field w 1 1))
  | 27 => some (.cmpi (field w 17 4) (field w 14 3) (field w 9 5) (field w 0 9))
  | 28 => some (.plog (field w 17 4) (field w 13 4) (field w 9 4) (field w 6 3))
  | 29 => some (.movp (field w 20 1) (field w 15 5) (field w 11 4))
  | 32 => some (.addi (field w 16 5) (field w 11 5) (field w 0 11))
  | 33 => some (.andi (field w 16 5) (field w 11 5) (field w 0 11))
  | 34 => some (.ori (field w 16 5) (field w 11 5) (field w 0 11))
  | 35 => some (.xori (field w 16 5) (field w 11 5) (field w 0 11))
  | 36 => some (.shli (field w 16 5) (field w 11 5) (field w 0 6))
  | 37 => some (.shri (field w 16 5) (field w 11 5) (field w 0 6))
  | 38 => some (.sari (field w 16 5) (field w 11 5) (field w 0 6))
  | 39 => some (.muli (field w 16 5) (field w 11 5) (field w 0 11))
  | 40 => some (.lil (field w 16 5) (field w 0 16))
  | 41 => some (.lih (field w 16 5) (field w 0 16))
  | 42 => some (.liu (field w 16 5) (field w 0 16))
  | 43 => some (.lix (field w 16 5) (field w 0 16))
  | 44 =>
    match (field w 8 3 : BitVec 3).toNat with
    | 0 => some (.ldb (field w 16 5) (field w 11 5) (field w 0 8))
    | 1 => some (.ldbz (field w 16 5) (field w 11 5) (field w 0 8))
    | 2 => some (.ldh (field w 16 5) (field w 11 5) (field w 0 8))
    | 3 => some (.ldhz (field w 16 5) (field w 11 5) (field w 0 8))
    | 4 => some (.ldw (field w 16 5) (field w 11 5) (field w 0 8))
    | 5 => some (.ldwz (field w 16 5) (field w 11 5) (field w 0 8))
    | 6 => some (.ldd (field w 16 5) (field w 11 5) (field w 0 8))
    | _ => none
  | 45 =>
    match (field w 8 3 : BitVec 3).toNat with
    | 0 => some (.stb (field w 16 5) (field w 11 5) (field w 0 8))
    | 2 => some (.sth (field w 16 5) (field w 11 5) (field w 0 8))
    | 4 => some (.stw (field w 16 5) (field w 11 5) (field w 0 8))
    | 6 => some (.std (field w 16 5) (field w 11 5) (field w 0 8))
    | _ => none
  | 46 =>
    match (field w 9 2 : BitVec 2).toNat with
    | 0 => some (.ldf (field w 16 5) (field w 11 5) (field w 0 9))
    | 1 => some (.ldfe (field w 16 5) (field w 11 5) (field w 0 9))
    | _ => none
  | 47 =>
    match (field w 9 2 : BitVec 2).toNat with
    | 0 => some (.ste (field w 16 5) (field w 11 5) (field w 0 9))
    | 1 => some (.stfl (field w 16 5) (field w 11 5) (field w 0 9))
    | _ => none
  | 48 =>
    match (field w 9 2 : BitVec 2).toNat with
    | 0 => some (.tagget (field w 16 5) (field w 11 5) (field w 0 9))
    | 1 => some (.tagset (field w 16 5) (field w 11 5) (field w 0 9))
    | _ => none
  | 49 => some (.shw (field w 19 2) (field w 17 2) (field w 12 5) (field w 7 5))
  | 50 => some (.csrr (field w 16 5) (field w 0 12))
  | 51 => some (.csrw (field w 16 5) (field w 0 12))
  | 56 => some (.branch (field w 16 5) (field w 15 1) (field w 0 15))
  | 57 => some (.jal (field w 16 5) (field w 0 16))
  | 58 => some (.jr (field w 16 5) (field w 11 5))
  | _ => none

/-- The V-class opcodes (R83). -/
def rawDecodeV (w : BitVec 32) : Option Instr :=
  match (field w 21 6 : BitVec 6).toNat with
  | 0 => some (.vadd (field w 17 4) (field w 15 2) (field w 10 5) (field w 5 5) (field w 0 5))
  | 1 => some (.vsub (field w 17 4) (field w 15 2) (field w 10 5) (field w 5 5) (field w 0 5))
  | 2 => some (.vmul (field w 17 4) (field w 15 2) (field w 10 5) (field w 5 5) (field w 0 5))
  | 3 => some (.vfma (field w 17 4) (field w 15 2) (field w 10 5) (field w 5 5) (field w 0 5))
  | 4 => some (.vmin (field w 17 4) (field w 15 2) (field w 10 5) (field w 5 5) (field w 0 5))
  | 5 => some (.vmax (field w 17 4) (field w 15 2) (field w 10 5) (field w 5 5) (field w 0 5))
  | 6 => some (.vabs (field w 17 4) (field w 15 2) (field w 10 5) (field w 5 5))
  | 7 => some (.vneg (field w 17 4) (field w 15 2) (field w 10 5) (field w 5 5))
  | 8 => some (.vand (field w 17 4) (field w 10 5) (field w 5 5) (field w 0 5))
  | 9 => some (.vor (field w 17 4) (field w 10 5) (field w 5 5) (field w 0 5))
  | 10 => some (.vxor (field w 17 4) (field w 10 5) (field w 5 5) (field w 0 5))
  | 11 => some (.vshl (field w 17 4) (field w 10 5) (field w 5 5) (field w 0 5))
  | 12 => some (.vshr (field w 17 4) (field w 10 5) (field w 5 5) (field w 0 5))
  | 13 => some (.vsar (field w 17 4) (field w 10 5) (field w 5 5) (field w 0 5))
  | 14 => some (.vcmp (field w 17 4) (field w 15 2) (field w 14 1) (field w 10 4) (field w 5 5) (field w 0 5))
  | 15 => some (.vsel (field w 17 4) (field w 10 5) (field w 5 5) (field w 0 5))
  | 16 => some (.vcvt (field w 17 4) (field w 10 5) (field w 5 5) (field w 0 5))
  | 17 => some (.vquant (field w 17 4) (field w 10 5) (field w 5 5) (field w 0 2))
  | 18 => some (.vdeq (field w 17 4) (field w 10 5) (field w 5 5) (field w 0 2))
  | 19 => some (.vred (field w 17 4) (field w 15 2) (field w 10 5) (field w 5 5) (field w 0 5))
  | 20 => some (.vscan (field w 17 4) (field w 15 2) (field w 10 5) (field w 5 5) (field w 0 5))
  | 21 => some (.vexp2 (field w 17 4) (field w 10 5) (field w 5 5))
  | 22 => some (.vlog2 (field w 17 4) (field w 10 5) (field w 5 5))
  | 23 => some (.vrcp (field w 17 4) (field w 10 5) (field w 5 5))
  | 24 => some (.vrsq (field w 17 4) (field w 10 5) (field w 5 5))
  | 25 => some (.vsort (field w 17 4) (field w 15 2) (field w 10 5) (field w 5 5) (field w 1 1) (field w 0 1))
  | 26 => some (.vperm (field w 17 4) (field w 10 5) (field w 5 5) (field w 0 5))
  | 27 => some (.vbcast (field w 17 4) (field w 10 5) (field w 5 5))
  | 28 => some (.vget (field w 15 2) (field w 10 5) (field w 5 5) (field w 0 5))
  | 29 => some (.viota (field w 17 4) (field w 10 5))
  | 30 => some (.vmov (field w 17 4) (field w 10 5) (field w 5 5))
  | 31 => some (.vcmul (field w 17 4) (field w 10 5) (field w 5 5) (field w 0 5))
  | 32 => some (.vtwosum (field w 17 4) (field w 10 5) (field w 5 5) (field w 0 5))
  | 33 => some (.vld (field w 17 4) (field w 10 5) (field w 5 5) (field w 2 1) (field w 0 2))
  | 34 => some (.vst (field w 17 4) (field w 10 5) (field w 5 5) (field w 0 2))
  | 35 => some (.vldx (field w 17 4) (field w 10 5) (field w 5 5) (field w 0 5))
  | 36 => some (.vstx (field w 17 4) (field w 10 5) (field w 5 5) (field w 0 5))
  | 37 => some (.vlend (field w 10 2) (field w 5 1))
  | 38 => some (.vrecl (field w 10 2))
  | 39 => some (.vpopc (field w 17 4) (field w 10 5) (field w 5 5))
  | _ => none

/-- The T-class opcodes (R84). -/
def rawDecodeT (w : BitVec 32) : Option Instr :=
  match (field w 21 6 : BitVec 6).toNat with
  | 0 => some (.trin (field w 17 4) (field w 12 5))
  | 1 => some (.trpop (field w 17 4) (field w 12 5))
  | 2 => some (.trcfg (field w 17 4) (field w 2 6) (field w 0 2))
  | 3 => some (.trclr (field w 17 4))
  | _ => none

/-- The M-class opcodes (R85). -/
def rawDecodeM (w : BitVec 32) : Option Instr :=
  match (field w 21 6 : BitVec 6).toNat with
  | 0 => some (.mma (field w 17 4) (field w 16 1) (field w 10 6) (field w 8 2) (field w 6 2) (field w 5 1) (field w 4 1) (field w 3 1) (field w 0 3))
  | 1 => some (.mmav (field w 17 4) (field w 16 1) (field w 10 6) (field w 8 2) (field w 6 2) (field w 5 1) (field w 4 1) (field w 3 1) (field w 0 3))
  | 2 => some (.mcma (field w 17 4) (field w 16 1) (field w 10 6) (field w 8 2) (field w 6 2) (field w 5 1) (field w 3 1) (field w 0 3))
  | 3 => some (.mzero (field w 17 4) (field w 10 6) (field w 3 1))
  | 4 => some (.mdrain (field w 17 4) (field w 16 1) (field w 10 6) (field w 8 2) (field w 5 1) (field w 3 1) (field w 0 3))
  | 5 => some (.mfill (field w 17 4) (field w 16 1) (field w 10 6) (field w 8 2) (field w 3 1))
  | 6 => some (.mfmt (field w 17 4) (field w 13 3) (field w 10 3) (field w 3 1))
  | 7 => some (.mnop (field w 17 4) (field w 3 1))
  | _ => none

/-- The X-class opcodes (R86). -/
def rawDecodeX (w : BitVec 32) : Option Instr :=
  match (field w 21 6 : BitVec 6).toNat with
  | 0 => some (.tld (field w 17 4) (field w 16 1) (field w 14 2) (field w 9 5) (field w 4 5) (field w 0 4))
  | 1 => some (.tst (field w 17 4) (field w 16 1) (field w 14 2) (field w 9 5) (field w 4 5) (field w 0 4))
  | 2 => some (.tmov (field w 17 4) (field w 16 1) (field w 14 2) (field w 9 5) (field w 4 5) (field w 0 4))
  | 3 => some (.tmc (field w 17 4) (field w 16 1) (field w 14 2) (field w 9 5) (field w 4 5) (field w 0 4))
  | 4 => some (.tldf (field w 17 4) (field w 16 1) (field w 14 2) (field w 9 5) (field w 4 5) (field w 0 4))
  | 5 => some (.tstf (field w 17 4) (field w 16 1) (field w 14 2) (field w 9 5) (field w 4 5) (field w 0 4))
  | 6 => some (.tacc (field w 17 4) (field w 16 1) (field w 14 2) (field w 9 5) (field w 4 5) (field w 0 4))
  | 7 => some (.sld (field w 17 4) (field w 16 1) (field w 14 2) (field w 9 5) (field w 0 1))
  | 8 => some (.twait (field w 17 4) (field w 9 5) (field w 0 4))
  | 9 => some (.ttag (field w 17 4) (field w 14 2) (field w 9 5) (field w 4 5))
  | 10 => some (.preq (field w 17 4) (field w 9 5) (field w 4 5) (field w 0 4))
  | _ => none

/-- The K-class opcodes (R87). -/
def rawDecodeK (w : BitVec 32) : Option Instr :=
  match (field w 21 6 : BitVec 6).toNat with
  | 0 => some (.loop (field w 15 6) (field w 10 5))
  | 1 => some (.loopn (field w 15 6) (field w 13 2))
  | 2 => some (.loopp (field w 15 6) (field w 13 2) (field w 11 2))
  | 3 => some (.fence (field w 18 3))
  | 4 => some (.arrive (field w 16 5) (field w 15 1))
  | 5 => some (.waitb (field w 16 5) (field w 12 4))
  | 6 => some (.bari (field w 16 5) (field w 11 5))
  | 7 => some (.spawn (field w 19 2) (field w 14 5) (field w 9 5) (field w 8 1) (field w 0 4))
  | 8 => some (.spawnc (field w 19 2) (field w 14 5) (field w 9 5) (field w 4 5) (field w 0 4))
  | 9 => some (.endTask)
  | 10 => some (.cnew (field w 16 5) (field w 12 4))
  | 11 => some (.resolve (field w 16 5) (field w 12 4))
  | 12 => some (.recast (field w 16 5) (field w 11 5) (field w 6 5))
  | 13 => some (.halloc (field w 16 5) (field w 11 5) (field w 6 5) (field w 2 4))
  | 14 => some (.hfree (field w 16 5))
  | 15 => some (.hpin (field w 16 5) (field w 11 5) (field w 7 4))
  | 16 => some (.hdrop (field w 16 5))
  | 17 => some (.hweak (field w 16 5) (field w 11 5))
  | 18 => some (.hprio (field w 16 5) (field w 12 4))
  | 19 => some (.msend (field w 16 5) (field w 11 5) (field w 9 1))
  | 20 => some (.eos (field w 16 5))
  | 21 => some (.chkeq (field w 16 5) (field w 11 5))
  | 22 => some (.trap (field w 0 16))
  | 23 => some (.eret)
  | 24 => some (.brk (field w 0 16))
  | 25 => some (.yield)
  | 26 => some (.harvest)
  | 27 => some (.join (field w 16 5) (field w 12 4))
  | _ => none

/-- The row and fields that a word names, before the checks of R88. -/
def rawDecode (w : BitVec 32) : Option Instr :=
  match (field w 27 3 : BitVec 3).toNat with
  | 0 => rawDecodeS w
  | 1 => rawDecodeV w
  | 2 => rawDecodeT w
  | 3 => rawDecodeM w
  | 4 => rawDecodeX w
  | 5 => rawDecodeK w
  | _ => none

/-- CLASS, OP and the operand field of a syllable, bits 29 to 0 (R62, R69 to R80); the other rows have no encoding. -/
def encode : Instr → Option (BitVec 30)
  | .add g d a b w => some (0#9 ++ g ++ d ++ a ++ b ++ w)
  | .sub g d a b w => some (1#9 ++ g ++ d ++ a ++ b ++ w)
  | .and g d a b w => some (2#9 ++ g ++ d ++ a ++ b ++ w)
  | .or g d a b w => some (3#9 ++ g ++ d ++ a ++ b ++ w)
  | .xor g d a b w => some (4#9 ++ g ++ d ++ a ++ b ++ w)
  | .andn g d a b w => some (5#9 ++ g ++ d ++ a ++ b ++ w)
  | .shl g d a b w => some (6#9 ++ g ++ d ++ a ++ b ++ w)
  | .shr g d a b w => some (7#9 ++ g ++ d ++ a ++ b ++ w)
  | .sar g d a b w => some (8#9 ++ g ++ d ++ a ++ b ++ w)
  | .mul g d a b w => some (9#9 ++ g ++ d ++ a ++ b ++ w)
  | .mulh g d a b w => some (10#9 ++ g ++ d ++ a ++ b ++ w)
  | .mulhz g d a b w => some (11#9 ++ g ++ d ++ a ++ b ++ w)
  | .div g d a b w => some (12#9 ++ g ++ d ++ a ++ b ++ w)
  | .divz g d a b w => some (13#9 ++ g ++ d ++ a ++ b ++ w)
  | .rem g d a b w => some (14#9 ++ g ++ d ++ a ++ b ++ w)
  | .remz g d a b w => some (15#9 ++ g ++ d ++ a ++ b ++ w)
  | .min g d a b w => some (16#9 ++ g ++ d ++ a ++ b ++ w)
  | .max g d a b w => some (17#9 ++ g ++ d ++ a ++ b ++ w)
  | .minz g d a b w => some (18#9 ++ g ++ d ++ a ++ b ++ w)
  | .maxz g d a b w => some (19#9 ++ g ++ d ++ a ++ b ++ w)
  | .sadd d a b k => some (20#9 ++ d ++ a ++ b ++ k ++ 0#4)
  | .clz g d a w => some (21#9 ++ g ++ d ++ a ++ 0#5 ++ w)
  | .popc g d a w => some (22#9 ++ g ++ d ++ a ++ 0#5 ++ w)
  | .sext g d a s => some (23#9 ++ g ++ d ++ a ++ s ++ 0#4)
  | .zext g d a s => some (24#9 ++ g ++ d ++ a ++ s ++ 0#4)
  | .sel d a b p => some (25#9 ++ d ++ a ++ b ++ p ++ 0#2)
  | .cmp p c a b u w => some (26#9 ++ p ++ c ++ a ++ b ++ u ++ w ++ 0#1)
  | .cmpi p c a i => some (27#9 ++ p ++ c ++ a ++ i)
  | .plog d a b o => some (28#9 ++ d ++ a ++ b ++ o ++ 0#6)
  | .movp r x p => some (29#9 ++ r ++ x ++ p ++ 0#11)
  | .addi d a i => some (32#9 ++ d ++ a ++ i)
  | .andi d a i => some (33#9 ++ d ++ a ++ i)
  | .ori d a i => some (34#9 ++ d ++ a ++ i)
  | .xori d a i => some (35#9 ++ d ++ a ++ i)
  | .shli d a s => some (36#9 ++ d ++ a ++ 0#5 ++ s)
  | .shri d a s => some (37#9 ++ d ++ a ++ 0#5 ++ s)
  | .sari d a s => some (38#9 ++ d ++ a ++ 0#5 ++ s)
  | .muli d a i => some (39#9 ++ d ++ a ++ i)
  | .lil d i => some (40#9 ++ d ++ i)
  | .lih d i => some (41#9 ++ d ++ i)
  | .liu d i => some (42#9 ++ d ++ i)
  | .lix d i => some (43#9 ++ d ++ i)
  | .ldb d a o => some (44#9 ++ d ++ a ++ 0#3 ++ o)
  | .ldbz d a o => some (44#9 ++ d ++ a ++ 1#3 ++ o)
  | .ldh d a o => some (44#9 ++ d ++ a ++ 2#3 ++ o)
  | .ldhz d a o => some (44#9 ++ d ++ a ++ 3#3 ++ o)
  | .ldw d a o => some (44#9 ++ d ++ a ++ 4#3 ++ o)
  | .ldwz d a o => some (44#9 ++ d ++ a ++ 5#3 ++ o)
  | .ldd d a o => some (44#9 ++ d ++ a ++ 6#3 ++ o)
  | .stb s a o => some (45#9 ++ s ++ a ++ 0#3 ++ o)
  | .sth s a o => some (45#9 ++ s ++ a ++ 2#3 ++ o)
  | .stw s a o => some (45#9 ++ s ++ a ++ 4#3 ++ o)
  | .std s a o => some (45#9 ++ s ++ a ++ 6#3 ++ o)
  | .ldf d a o => some (46#9 ++ d ++ a ++ 0#2 ++ o)
  | .ldfe d a o => some (46#9 ++ d ++ a ++ 1#2 ++ o)
  | .ste s a o => some (47#9 ++ s ++ a ++ 0#2 ++ o)
  | .stfl s a o => some (47#9 ++ s ++ a ++ 1#2 ++ o)
  | .tagget d a o => some (48#9 ++ d ++ a ++ 0#2 ++ o)
  | .tagset s a o => some (48#9 ++ s ++ a ++ 1#2 ++ o)
  | .shw s h f a => some (49#9 ++ s ++ h ++ f ++ a ++ 0#7)
  | .csrr d c => some (50#9 ++ d ++ 0#4 ++ c)
  | .csrw a c => some (51#9 ++ a ++ 0#4 ++ c)
  | .branch g n d => some (56#9 ++ g ++ n ++ d)
  | .jal d i => some (57#9 ++ d ++ i)
  | .jr g a => some (58#9 ++ g ++ a ++ 0#11)
  | .vadd m t d a b => some (64#9 ++ m ++ t ++ d ++ a ++ b)
  | .vsub m t d a b => some (65#9 ++ m ++ t ++ d ++ a ++ b)
  | .vmul m t d a b => some (66#9 ++ m ++ t ++ d ++ a ++ b)
  | .vfma m t d a b => some (67#9 ++ m ++ t ++ d ++ a ++ b)
  | .vmin m t d a b => some (68#9 ++ m ++ t ++ d ++ a ++ b)
  | .vmax m t d a b => some (69#9 ++ m ++ t ++ d ++ a ++ b)
  | .vabs m t d a => some (70#9 ++ m ++ t ++ d ++ a ++ 0#5)
  | .vneg m t d a => some (71#9 ++ m ++ t ++ d ++ a ++ 0#5)
  | .vand m d a b => some (72#9 ++ m ++ 1#2 ++ d ++ a ++ b)
  | .vor m d a b => some (73#9 ++ m ++ 1#2 ++ d ++ a ++ b)
  | .vxor m d a b => some (74#9 ++ m ++ 1#2 ++ d ++ a ++ b)
  | .vshl m d a b => some (75#9 ++ m ++ 1#2 ++ d ++ a ++ b)
  | .vshr m d a b => some (76#9 ++ m ++ 1#2 ++ d ++ a ++ b)
  | .vsar m d a b => some (77#9 ++ m ++ 1#2 ++ d ++ a ++ b)
  | .vcmp m t c p a b => some (78#9 ++ m ++ t ++ c ++ p ++ a ++ b)
  | .vsel m d a b => some (79#9 ++ m ++ 1#2 ++ d ++ a ++ b)
  | .vcvt m d a c => some (80#9 ++ m ++ 3#2 ++ d ++ a ++ c)
  | .vquant m d a f => some (81#9 ++ m ++ 3#2 ++ d ++ a ++ 0#3 ++ f)
  | .vdeq m d a f => some (82#9 ++ m ++ 3#2 ++ d ++ a ++ 0#3 ++ f)
  | .vred m t d a o => some (83#9 ++ m ++ t ++ d ++ a ++ o)
  | .vscan m t d a o => some (84#9 ++ m ++ t ++ d ++ a ++ o)
  | .vexp2 m d a => some (85#9 ++ m ++ 0#2 ++ d ++ a ++ 0#5)
  | .vlog2 m d a => some (86#9 ++ m ++ 0#2 ++ d ++ a ++ 0#5)
  | .vrcp m d a => some (87#9 ++ m ++ 0#2 ++ d ++ a ++ 0#5)
  | .vrsq m d a => some (88#9 ++ m ++ 0#2 ++ d ++ a ++ 0#5)
  | .vsort m t d a x o => some (89#9 ++ m ++ t ++ d ++ a ++ 0#3 ++ x ++ o)
  | .vperm m d a b => some (90#9 ++ m ++ 1#2 ++ d ++ a ++ b)
  | .vbcast m d a => some (91#9 ++ m ++ 1#2 ++ d ++ a ++ 0#5)
  | .vget t d a b => some (1472#13 ++ t ++ d ++ a ++ b)
  | .viota m d => some (93#9 ++ m ++ 1#2 ++ d ++ 0#10)
  | .vmov m d a => some (94#9 ++ m ++ 1#2 ++ d ++ a ++ 0#5)
  | .vcmul m d a b => some (95#9 ++ m ++ 3#2 ++ d ++ a ++ b)
  | .vtwosum m d a b => some (96#9 ++ m ++ 0#2 ++ d ++ a ++ b)
  | .vld m d a x z => some (97#9 ++ m ++ 1#2 ++ d ++ a ++ 0#2 ++ x ++ z)
  | .vst m d a z => some (98#9 ++ m ++ 1#2 ++ d ++ a ++ 0#3 ++ z)
  | .vldx m d a b => some (99#9 ++ m ++ 1#2 ++ d ++ a ++ b)
  | .vstx m d a b => some (100#9 ++ m ++ 1#2 ++ d ++ a ++ b)
  | .vlend n k => some (51720#18 ++ n ++ 0#4 ++ k ++ 0#5)
  | .vrecl n => some (52232#18 ++ n ++ 0#10)
  | .vpopc m d a => some (103#9 ++ m ++ 1#2 ++ d ++ a ++ 0#5)
  | .trin g v => some (128#9 ++ g ++ v ++ 0#12)
  | .trpop g v => some (129#9 ++ g ++ v ++ 0#12)
  | .trcfg g r s => some (130#9 ++ g ++ 0#9 ++ r ++ s)
  | .trclr g => some (131#9 ++ g ++ 0#17)
  | .mma g w t a b z v k p => some (192#9 ++ g ++ w ++ t ++ a ++ b ++ z ++ v ++ k ++ p)
  | .mmav g w t a b z v k p => some (193#9 ++ g ++ w ++ t ++ a ++ b ++ z ++ v ++ k ++ p)
  | .mcma g w t a b z k p => some (194#9 ++ g ++ w ++ t ++ a ++ b ++ z ++ 0#1 ++ k ++ p)
  | .mzero g t k => some (195#9 ++ g ++ 0#1 ++ t ++ 0#6 ++ k ++ 0#3)
  | .mdrain g w t a z k d => some (196#9 ++ g ++ w ++ t ++ a ++ 0#2 ++ z ++ 0#1 ++ k ++ d)
  | .mfill g w t a k => some (197#9 ++ g ++ w ++ t ++ a ++ 0#4 ++ k ++ 0#3)
  | .mfmt g a b k => some (198#9 ++ g ++ 0#1 ++ a ++ b ++ 0#6 ++ k ++ 0#3)
  | .mnop g k => some (199#9 ++ g ++ 0#13 ++ k ++ 0#3)
  | .tld g w h a b p => some (256#9 ++ g ++ w ++ h ++ a ++ b ++ p)
  | .tst g w h a b p => some (257#9 ++ g ++ w ++ h ++ a ++ b ++ p)
  | .tmov g w h a b p => some (258#9 ++ g ++ w ++ h ++ a ++ b ++ p)
  | .tmc g w h a b p => some (259#9 ++ g ++ w ++ h ++ a ++ b ++ p)
  | .tldf g w h a b p => some (260#9 ++ g ++ w ++ h ++ a ++ b ++ p)
  | .tstf g w h a b p => some (261#9 ++ g ++ w ++ h ++ a ++ b ++ p)
  | .tacc g w h a b p => some (262#9 ++ g ++ w ++ h ++ a ++ b ++ p)
  | .sld g w h a n => some (263#9 ++ g ++ w ++ h ++ a ++ 0#8 ++ n)
  | .twait g a p => some (264#9 ++ g ++ 0#3 ++ a ++ 0#5 ++ p)
  | .ttag g h a b => some (265#9 ++ g ++ 0#1 ++ h ++ a ++ b ++ 0#4)
  | .preq g a b p => some (266#9 ++ g ++ 0#3 ++ a ++ b ++ p)
  | .loop b a => some (320#9 ++ b ++ a ++ 0#10)
  | .loopn b h => some (321#9 ++ b ++ h ++ 0#13)
  | .loopp b h s => some (322#9 ++ b ++ h ++ s ++ 0#11)
  | .fence s => some (323#9 ++ s ++ 0#18)
  | .arrive a r => some (324#9 ++ a ++ r ++ 0#15)
  | .waitb a p => some (325#9 ++ a ++ p ++ 0#12)
  | .bari a b => some (326#9 ++ a ++ b ++ 0#11)
  | .spawn t a b o p => some (327#9 ++ t ++ a ++ b ++ o ++ 0#4 ++ p)
  | .spawnc t a b c p => some (328#9 ++ t ++ a ++ b ++ c ++ p)
  | .endTask => some (689963008#30)
  | .cnew d p => some (330#9 ++ d ++ p ++ 0#12)
  | .resolve a p => some (331#9 ++ a ++ p ++ 0#12)
  | .recast a b c => some (332#9 ++ a ++ b ++ c ++ 0#6)
  | .halloc d a b p => some (333#9 ++ d ++ a ++ b ++ p ++ 0#2)
  | .hfree a => some (334#9 ++ a ++ 0#16)
  | .hpin d a p => some (335#9 ++ d ++ a ++ p ++ 0#7)
  | .hdrop a => some (336#9 ++ a ++ 0#16)
  | .hweak d a => some (337#9 ++ d ++ a ++ 0#11)
  | .hprio a k => some (338#9 ++ a ++ k ++ 0#12)
  | .msend a b s => some (339#9 ++ a ++ b ++ 1#1 ++ s ++ 0#9)
  | .eos a => some (340#9 ++ a ++ 0#16)
  | .chkeq a b => some (341#9 ++ a ++ b ++ 0#11)
  | .trap i => some (10944#14 ++ i)
  | .eret => some (719323136#30)
  | .brk i => some (11008#14 ++ i)
  | .yield => some (723517440#30)
  | .harvest => some (725614592#30)
  | .join a p => some (347#9 ++ a ++ p ++ 0#12)
  | .undefinedEncodingTrap _ => none
  | .budgetOverrun _ => none
  | .landing _ => none
  | .redirect _ => none
  | .loopPass _ => none
  | .loopEnd _ => none
  | .interlockedCompletion _ => none
  | .moveCompletion _ _ _ => none
  | .msendDelivery _ => none
  | .eosArrival _ => none
  | .taggedWake _ => none
  | .waitbWake _ => none
  | .joinWake _ => none
  | .twaitWake _ => none
  | .orderingPoint _ => none
  | .reclaimWake _ => none
  | .taskStart _ => none
  | .steal _ _ => none
  | .preload _ _ => none
  | .preemptionRequest _ => none
  | .resume _ _ => none
  | .impreciseFault _ _ _ _ => none
  | .returnToPool _ _ => none
  | .watermarkReclaim _ => none
  | .launchCompletion _ => none
  | .msiXMessage _ _ => none
  | .translationResponse _ _ _ _ _ => none
  | .pageRequestResponse _ _ _ => none
  | .invalidationRequest _ _ _ => none
  | .dirtyLogSweep => none
  | .fabricAccess _ => none
  | .mergedUpdate _ => none
  | .bar4Access _ _ => none
  | .tailWrite _ _ => none
  | .cplheadWrite _ _ => none
  | .stateWrite _ _ => none
  | .varmWrite _ _ _ => none
  | .registerWrite _ _ _ => none
  | .copyin _ _ => none
  | .copyout _ _ => none
  | .flagWordAcquire _ => none
  | .launch _ _ => none
  | .alloc _ _ => none
  | .freeCommand _ _ => none
  | .harvestCommand _ _ => none
  | .dlog _ _ => none
  | .exportCommand _ _ => none
  | .redwin _ _ => none
  | .nopCommand _ _ => none
  | .teardown _ _ => none
  | .attest _ _ => none
  | .assign _ _ => none
  | .ctxcfg _ _ => none
  | .watermark _ _ => none
  | .fabid _ _ => none
  | .fkey _ _ => none
  | .fwload _ _ => none
  | .malformedCommand _ _ => none
  | .reset => none
  | .addressSpaceTeardown _ _ => none
  | .marginReplan _ => none
  | .replanCompletion _ _ => none
  | .rowSparing _ _ _ => none
  | .quarantineScrub _ _ _ => none
  | .noMnop _ => none
  | .rowCopyCompletion _ _ => none
  | .functionLevelReset _ => none

/-- A syllable's word, with its E and Y bits (R62). -/
def encodeSyl (y : Syl) : Option (BitVec 32) :=
  (encode y.instr).map fun b => BitVec.ofBool y.last ++ (BitVec.ofBool y.sync ++ b)

/-- The instruction of a word, or none where R88 refuses it. -/
def decodeWord (w : BitVec 32) : Option Instr :=
  match rawDecode w with
  | some i => if encode i = some (w.extractLsb' 0 30) ∧ i.wf = true then some i else none
  | none => none

/-- The syllable of a word (R62). -/
def decodeSyl (w : BitVec 32) : Option Syl :=
  (decodeWord w).map fun i => ⟨w.getLsbD 31, w.getLsbD 30, i⟩

/-- The first syllable of a bundle that fails to decode, as R66 and R367 name it. -/
structure BadSyl where
  op   : BitVec 6
  slot : Nat
  pos  : Nat
  deriving DecidableEq, Repr

/-- Slots are numbered as in R365. The slot a syllable takes after one in slot prev, or the slot that its record names when
its class or its place is wrong (R64, R88, R367); one that is both in an occupied slot and out of order names 0 (DESIGN CHOICE, log 106). -/
def slotOf (w : BitVec 32) (prev : Option Nat) : Except Nat Nat :=
  let after (n : Nat) : Except Nat Nat :=
    match prev with
    | none => .ok n
    | some p => if p < n then .ok n else if p = n then .error n else .error 0
  match (field w 27 3 : BitVec 3).toNat with
  | 0 =>
    match prev with
    | none => .ok 0
    | some 0 => if 0x38 ≤ (field w 21 6 : BitVec 6).toNat ∧ (field w 21 6 : BitVec 6).toNat ≤ 0x3A then .error 1 else .ok 1
    | some 1 => .error 1
    | some _ => .error 0
  | 1 => after 2
  | 2 => after 5
  | 3 => after (if w.getLsbD 3 then 4 else 3)
  | 4 => after 6
  | 5 => after 7
  | _ => .error 0

/-- Slot numbers as slots. -/
def Slot.ofNum : Nat → Slot
  | 0 => .s0 | 1 => .s1 | 2 => .v | 3 => .ma | 4 => .mb | 5 => .t | 6 => .x | _ => .k

/-- The numbers of R365. -/
def Slot.num : Slot → Nat
  | .s0 => 0 | .s1 => 1 | .v => 2 | .ma => 3 | .mb => 4 | .t => 5 | .x => 6 | .k => 7

/-- The syllable in a place of a bundle, with its slot, or its failure (R66, R88). -/
def decodeAt (w : BitVec 32) (prev : Option Nat) (pos : Nat) : Except BadSyl (Nat × Syl) :=
  match slotOf w prev with
  | .error n => .error ⟨field w 21 6, n, pos⟩
  | .ok n =>
    match decodeSyl w with
    | none => .error ⟨field w 21 6, n, pos⟩
    | some y => if pos = 7 ∧ y.last = false then .error ⟨field w 21 6, n, pos⟩ else .ok (n, y)

/-- The instruction the decoder reads from a word given as a number (the opcode table's numbering of bits). -/
def decodeTableWord (nbits w : Nat) : Option Instr :=
  decodeWord (BitVec.ofNat 32 (w % 2 ^ nbits))

end Sys2Proof
end

