-- ==== Sys2Proof/Machine/Bits.lean ====
section
/-! DEFINITION. Bit fields, byte order and small list helpers. -/

namespace Sys2Proof.Machine

/-- Bits [lo + n - 1 : lo] of a number. -/
def fld (x lo n : Nat) : Nat := x / 2 ^ lo % 2 ^ n

/-- Bits [lo + n - 1 : lo] of a word, as a number. -/
def wfld (x : Word) (lo n : Nat) : Nat := fld x.toNat lo n

/-- A number as n bytes, the lowest first (R10). -/
def leBytes : Nat → Nat → List Byte
  | 0, _ => []
  | n + 1, x => BitVec.ofNat 8 x :: leBytes n (x / 256)

/-- The number that bytes hold, the lowest first (R10). -/
def leNat : List Byte → Nat
  | [] => 0
  | b :: bs => b.toNat + 256 * leNat bs

/-- A list cut into pieces of k, the last one perhaps shorter; fuel bounds the pieces. -/
def chunks {α : Type} (k : Nat) : Nat → List α → List (List α)
  | 0, _ => []
  | _, [] => []
  | f + 1, l => l.take k :: chunks k f (l.drop k)

/-- Addresses a, a + 1, ..., a + n - 1. -/
def span (a n : Nat) : List Nat := (List.range n).map (a + ·)

/-- Insert into a list that rises by a key, after equal keys. -/
def insertBy {α : Type} (key : α → Nat) (x : α) : List α → List α
  | [] => [x]
  | y :: ys => if key x < key y then x :: y :: ys else y :: insertBy key x ys

/-- A list in rising order of a key; equal keys keep their order. -/
def sortBy {α : Type} (key : α → Nat) (l : List α) : List α := l.foldl (fun acc x => insertBy key x acc) []

/-- Set an element of a list where a test holds. -/
def updWhere {α : Type} (test : α → Bool) (f : α → α) (l : List α) : List α := l.map fun x => if test x then f x else x

/-- A mask of w bits, all ones or all zeros. -/
def allIf (w : Nat) (b : Bool) : BitVec w := if b then BitVec.allOnes w else 0

/-- Sign extension of the low n bits of a word. -/
def sextWord (n : Nat) (x : Word) : Word := (x.setWidth n).signExtend 64

/-- Bits under mask taken from y, the others from x. -/
def blend {w : Nat} (x mask y : BitVec w) : BitVec w := (x &&& ~~~mask) ||| (y &&& mask)

end Sys2Proof.Machine
end

