-- ==== Sys2Proof/Machine/Sparse.lean ====
section
/-! DEFINITION. Sparse maps from numbers: a list of pairs with keys strictly rising. Sparse.set drops an entry that would
hold the value an unlisted key reads as, so that a map written with it (memory, its tags) has one form. -/

namespace Sys2Proof.Machine

/-- A map from numbers whose unlisted keys read as a value the reader names. -/
abbrev Sparse (α : Type) := List (Nat × α)

/-- The value at a key; an unlisted key reads as d. -/
def Sparse.get {α : Type} (d : α) : Sparse α → Nat → α
  | [], _ => d
  | (j, v) :: m, k => if j = k then v else Sparse.get d m k

/-- The map without a key. -/
def Sparse.erase {α : Type} (m : Sparse α) (k : Nat) : Sparse α := m.filter fun e => e.1 != k

/-- The map with a key set, whatever the value. -/
def Sparse.put {α : Type} : Sparse α → Nat → α → Sparse α
  | [], k, x => [(k, x)]
  | (j, v) :: m, k, x =>
    if j = k then (k, x) :: m else if k < j then (k, x) :: (j, v) :: m else (j, v) :: Sparse.put m k x

/-- The map with a key set; a key set to what an unlisted key reads as is dropped. -/
def Sparse.set {α : Type} [DecidableEq α] (d : α) (m : Sparse α) (k : Nat) (x : α) : Sparse α :=
  if x = d then Sparse.erase m k else Sparse.put m k x

/-- Keys strictly rise, each above a bound, and no entry holds d. -/
def Sparse.wfAbove {α : Type} [DecidableEq α] (d : α) : Nat → Sparse α → Bool
  | _, [] => true
  | b, (k, v) :: m => decide (b ≤ k) && decide (v ≠ d) && Sparse.wfAbove d (k + 1) m

/-- The canonical form. -/
def Sparse.wf {α : Type} [DecidableEq α] (d : α) (m : Sparse α) : Bool := Sparse.wfAbove d 0 m

end Sys2Proof.Machine
end

