-- ==== Sys2Proof/Machine/Memory.lean ====
section
/-! DEFINITION. The memory of the package as one canonical list of bytes, its physical numbering (log 5), and the tags of
the scratchpad levels (R61). -/

namespace Sys2Proof.Machine

/-- Physical numbers (log 5): host memory has the numbers below 2^64; HBM byte x is 2^64 + x. -/
def hbmPA (x : Nat) : Nat := 2 ^ 64 + x

/-- Byte o of the scratchpad of core q (log 5). -/
def spadPA (q o : Nat) : Nat := 2 ^ 65 + q * 2 ^ 22 + o

/-- Byte o of the store of cluster g (log 5). -/
def clusterPA (g o : Nat) : Nat := 2 ^ 66 + g * 2 ^ 23 + o

/-- Byte o of the store of die d (log 5). -/
def diePA (d o : Nat) : Nat := 2 ^ 67 + d * 2 ^ 25 + o

/-- Byte o of accumulator tile t of core q, elements in row order (log 5, R53). -/
def tilePA (q t o : Nat) : Nat := 2 ^ 68 + q * 2 ^ 20 + t * 2 ^ 14 + o

/-- Byte x of the I/O space of a function, which holds its rings and its dirty logs (R385, R401; log 5). -/
def ioPA (fn x : Nat) : Nat := 2 ^ 72 + fn * 2 ^ 64 + x

/-- HBM holds 1,024 GB (R2, R10). -/
def hbmBytes : Nat := 1024 * 10 ^ 9

/-- A physical number in HBM. -/
def inHbm (pa : Nat) : Bool := 2 ^ 64 ≤ pa && pa < 2 ^ 64 + hbmBytes

/-- A physical number in host memory. -/
def inHost (pa : Nat) : Bool := pa < 2 ^ 64

/-- A physical number in a scratchpad, cluster store or die store: the words that carry tags (R61). -/
def inStore (pa : Nat) : Bool := 2 ^ 65 ≤ pa && pa < 2 ^ 68

/-- A physical number in the scratchpad of core q. -/
def inSpad (q pa : Nat) : Bool := spadPA q 0 ≤ pa && pa < spadPA (q + 1) 0

/-- What an unlisted byte reads as (log 3). -/
def emptyByte : Byte := 0

/-- The byte at a physical number. -/
def byteAt (m : List Host.Cell) (a : Nat) : Byte := Sparse.get emptyByte m a

/-- n bytes from a physical number on. -/
def readBytes (m : List Host.Cell) (a n : Nat) : List Byte := (span a n).map (byteAt m)

/-- The little-endian number in n bytes (R10). -/
def readNat (m : List Host.Cell) (a n : Nat) : Nat := leNat (readBytes m a n)

/-- The entries that bytes from a on make, without those that hold what an unlisted byte reads as. -/
def entriesFrom : Nat → List Byte → List Host.Cell
  | _, [] => []
  | a, b :: bs => if b = emptyByte then entriesFrom (a + 1) bs else (a, b) :: entriesFrom (a + 1) bs

/-- Memory with bytes written from a on. -/
def writeBytes (m : List Host.Cell) (a : Nat) (bs : List Byte) : List Host.Cell :=
  m.filter (fun e => e.1 < a) ++ entriesFrom a bs ++ m.filter (fun e => a + bs.length ≤ e.1)

/-- Memory with an n-byte little-endian number written. -/
def writeNat (m : List Host.Cell) (a n x : Nat) : List Host.Cell := writeBytes m a (leBytes n x)

/-- Memory with scattered bytes written, the later of two to one byte prevailing. -/
def writeAll (m : List Host.Cell) (l : List (Nat × Byte)) : List Host.Cell :=
  l.foldl (fun m e => writeBytes m e.1 [e.2]) m

/-- The canonical form of memory: addresses strictly rise and no entry holds what an unlisted byte reads as. -/
def memoryWf (m : List Host.Cell) : Bool := Sparse.wf emptyByte m

/-- The codes of R61. -/
def tagEmpty : BitVec 2 := 0
def tagFull : BitVec 2 := 1
def tagBroken : BitVec 2 := 2
def tagPoison : BitVec 2 := 3

/-- The tag of the 8-byte word that holds a physical number; an unlisted tag is EMPTY (log 3). -/
def tagAt (t : Sparse (BitVec 2)) (pa : Nat) : BitVec 2 := Sparse.get tagEmpty t (pa / 8)

/-- The tags with one word's tag set; only words of the three scratchpad levels carry tags (R61). -/
def setTag (t : Sparse (BitVec 2)) (pa : Nat) (g : BitVec 2) : Sparse (BitVec 2) :=
  if inStore pa then Sparse.set tagEmpty t (pa / 8) g else t

/-- The 8-byte words that n bytes from a on touch. -/
def wordsOf (a n : Nat) : List Nat := if n = 0 then [] else (List.range ((a + n - 1) / 8 - a / 8 + 1)).map (fun i => 8 * (a / 8 + i))

/-- The tags with the tag of every word in a range set. -/
def setTags (t : Sparse (BitVec 2)) (a n : Nat) (g : BitVec 2) : Sparse (BitVec 2) :=
  (wordsOf a n).foldl (fun t w => setTag t w g) t

end Sys2Proof.Machine
end

