-- ==== Sys2Proof/Config.lean ====
section
/-! DEFINITION. What the manual leaves open: free values. None has a body that Lean can evaluate, so no proof can lean on
what one of them is (log 1). -/

namespace Sys2Proof

/-- A stream of free values. A step that needs one reads the entry that State.free names and advances it (log 1). -/
opaque Config.freeNat : Nat → Nat

/-- Whether a firmware image, or a configuration block, carries a valid signature under the key the ROM holds (R409). -/
opaque Config.signatureValid : List Byte → Bool

/-- The version a firmware image states (R409). -/
opaque Config.imageVersion : List Byte → Nat

/-- The lowest version that a configuration block states (R409). -/
opaque Config.minVersion : List Byte → Nat

/-- The bytes of the identity public key, and of a signature of the first bytes of a report, which may differ from one report to the next
(R409, R410). -/
opaque Config.identityKey : Nat → Byte
opaque Config.signature : List Byte → Nat → Nat → Byte

/-- The first 4 KiB unit of the range of a die's half of HBM that is reserved at configuration for its object table (R329). -/
opaque Config.reservedStart : Nat → Nat

/-- The 4 KiB units that the reserved range of a die holds for segment and stream records, less one (R331). -/
opaque Config.recordUnits : Nat → Nat

/-- HBM rows (R380): the bank of a row of a die, the spare rows of a bank of a die, and the 4 KiB units that a row holds. -/
opaque Config.rowBank : Nat → Nat → Nat
opaque Config.spareRows : Nat → Nat → Nat
opaque Config.rowUnits : Nat → Nat → List Nat

/-- A free value of any width. -/
def Config.freeBits (w n : Nat) : BitVec w := BitVec.ofNat w (Config.freeNat n)

/-- A free choice. -/
def Config.freeBool (n : Nat) : Bool := Config.freeNat n % 2 == 1

end Sys2Proof
end

