-- ==== Sys2Proof/Machine/State.lean ====
section
/-! DEFINITION. The state of the Ecquin as plain data: contexts, cores, dies, memory with its tags, engines' work in
flight, launches, the host interface and the fabric; the reset state; the reasons a step can stop. INVENTORY.md lists each
field with its rule and its reset value. -/

namespace Sys2Proof.Machine

/-- A write that a syllable has issued to a register and that not every slot sees yet (R39-R44). Bits under mask take val.
lat is the bound L; land the landing entry, which R45 can bring forward; exact means that the producer's slot reads the
old value up to the landing (R41, R186). -/
structure Write (w : Nat) where
  slot  : Slot
  entry : Nat
  lat   : Nat
  land  : Nat
  exact : Bool
  mask  : BitVec w
  val   : BitVec w
  deriving DecidableEq, Repr

/-- A register: its settled value, the writes that have landed but that some slot may not see yet (oldest first), and the
writes that have issued and not landed (in issue order). -/
structure Cell (w : Nat) where
  base   : BitVec w
  landed : List (Write w)
  pend   : List (Write w)
  deriving DecidableEq, Repr

/-- A register with no outstanding write. -/
def Cell.of {w : Nat} (x : BitVec w) : Cell w := ⟨x, [], []⟩

/-- The two matrix engines. -/
inductive Eng where
  | ma | mb
  deriving DecidableEq, Repr

/-- The number format codes of R77. -/
inductive MFmt where
  | fp32 | bf16 | fp16 | e4m3 | e5m2 | e2m1 | int8 | d8
  deriving DecidableEq, Repr

/-- The format pair of an engine: the pair in force, the pair in force before entry since, the entry of the last push and
the entry that owes an MNOP (R220, R243). -/
structure FmtSt where
  now      : MFmt × MFmt
  before   : MFmt × MFmt
  since    : Nat
  lastPush : Option Nat
  owed     : Option Nat
  deriving DecidableEq, Repr

/-- The lend state of a vector bank: the state from entries above since on, and the state before (R164). -/
structure LendSt where
  now    : Option Eng
  before : Option Eng
  since  : Nat
  deriving DecidableEq, Repr

/-- What an MDRAIN was issued with (R238): engine, tile, drain code, the CTL it read, its destination's shape and loop offset. -/
structure Drain where
  eng   : Eng
  tile  : Nat
  code  : BitVec 3
  ctl   : Word
  shape : ShapeBits
  lam   : Int
  deriving DecidableEq, Repr

/-- Whether a scratchpad write is an S store, a VST, a VSTX or an MDRAIN (R369). -/
inductive StoreKind where
  | scalar | vst | vstx | mdrain (d : Drain)
  deriving DecidableEq, Repr

/-- An exact-landing write to the own scratchpad (R41), with the fields of its in-flight record entry (R369): destination
base, MASK, AUX, DATA and OFFS; the bytes it writes, at physical addresses; and, once landed, the bytes it replaced. -/
structure StoreRec where
  kind   : StoreKind
  slot   : Slot
  entry  : Nat
  lat    : Nat
  land   : Nat
  base   : Word
  mask   : Word
  aux    : Nat
  data   : VReg
  offs   : VReg
  bytes  : List (Nat × Byte)
  old    : List (Nat × Byte)
  landed : Bool
  deriving DecidableEq, Repr

/-- A T-slot effect that has issued and not landed (R186). -/
inductive TEffect where
  | row (v : VReg)
  | config (rows : Nat) (size : BitVec 2)
  | clear
  deriving DecidableEq, Repr

/-- The transpose unit of a context (R184): R, the element size code, the rows of B, rc and cc, and the effects not
landed, each with its landing entry. -/
structure TUnit where
  rows : Nat
  size : BitVec 2
  buf  : Sparse VReg
  rc   : Nat
  cc   : Nat
  pend : List (Nat × TEffect)
  deriving DecidableEq, Repr

/-- A tile as 64 rows of 64 elements. -/
abbrev Tile := List (List (BitVec 32))

/-- What an operation makes of a tile: nothing, at the mark of an MDRAIN's read (R241); given elements (MZERO, MFILL, MDRAIN with z = 1); a push of lines under a format pair, with the
flush, the scales if it takes them, the zeroing, the sign; or an MCMA of lines (R232-R237). -/
inductive TileFn where
  | read
  | set (t : Tile)
  | push (pair : MFmt × MFmt) (fzn scaled zero sub : Bool) (buf : ScaleBuf) (a b : List Nat)
  | mcma (zero sub : Bool) (a b : List Nat)
  deriving DecidableEq, Repr

/-- An update of an accumulator tile, for R240: tile, engine, entry and bound; what it does, and the tile before it. -/
structure TileUpd where
  tile  : Nat
  eng   : Eng
  entry : Nat
  bound : Nat
  fn    : TileFn
  old   : Tile
  deriving DecidableEq, Repr

/-- The three loop kinds. -/
inductive LoopKind where
  | loop | loopn | loopp
  deriving DecidableEq, Repr

/-- The loop state of a context (R156): passes counts the passes planned, pass the current one, pos the position in the
body, started whether the pass's first bundle may dispatch, first the iteration that pass 0 carries (R157), draining whether
a pre-emption request has cleared p8, bounds the nest's six bounds. -/
structure LoopSt where
  kind     : LoopKind
  body     : Word
  len      : Nat
  count    : Nat
  stages   : Nat
  pass     : Nat
  pos      : Nat
  started  : Bool
  first    : Nat
  limit    : Nat
  draining : Bool
  bounds   : List Nat
  deriving DecidableEq, Repr

/-- What a waiting syllable waits for (R33), or why it holds: engine is a full command queue, stall covers the waits that are not
block events; broken is a wait whose word has become BROKEN (R274, R275), unheard one on a word that BARI has tagged FULL, which
ends no wait (R264). -/
inductive Block where
  | tagged
  | twait
  | waitb
  | join
  | interlocked
  | reclaim
  | recast
  | speculation
  | engine
  | broken
  | unheard
  | stall
  deriving DecidableEq, Repr

/-- What a translation request brought (R398): a target for the page with its read and write bits, a page that is not present,
a page that refuses the write, or a failure. -/
inductive XRes where
  | at (target : Nat) (read write : Bool)
  | absent
  | readOnly
  | failed
  deriving DecidableEq, Repr

/-- A translation that a stalled syllable or command has gathered: a 4 KiB page number, the access type asked, the answer. -/
structure PageRes where
  page  : Nat
  write : Bool
  res   : XRes
  deriving DecidableEq, Repr

/-- A decoded syllable that has not issued, with its slot, its position in its bundle, what it waits for, if it has come to
issue and waits, the physical number of the word that it waits on, if it waits on one, and the operands that it has read (R45). -/
structure Queued where
  slot : Slot
  pos  : Nat
  syl  : Syl
  blk  : Option Block
  word : Option Nat
  ops  : List Word
  deriving DecidableEq, Repr

/-- A bundle that has been dispatched (R35): its entry number, its address and its syllables' count, whether it is a sync bundle
(R38), the delay state and the loop state from which it was dispatched (R150, R156), and the syllables that have not issued. -/
structure Disp where
  entry     : Nat
  pc        : Word
  len       : Nat
  sync      : Bool
  redirects : List (Nat × Word)
  nulls     : List Nat
  loop      : Option LoopSt
  left      : List Queued
  deriving DecidableEq, Repr

/-- The fields of a task record (R285). -/
structure TaskRec where
  entry   : Word
  arg1    : Word
  arg2    : Word
  xblk    : BitVec 32
  join    : BitVec 32
  sem1    : BitVec 32
  sem0    : BitVec 32
  pend    : Bool
  len1    : Nat
  len0    : Nat
  foff    : Nat
  seq     : BitVec 48
  lk      : BitVec 16
  conds   : List (BitVec 8)
  depth   : Nat
  budget  : Nat
  pin     : Bool
  die     : Nat
  cluster : Nat
  core    : Nat
  deriving DecidableEq, Repr

/-- A fault: its class, sub-cause, immediate, details, syllable and kind (R351, R362, R365, R366). -/
structure FaultInfo where
  cls    : BitVec 8
  sub    : BitVec 8
  imm    : BitVec 16
  det0   : Word
  det1   : Word
  op     : BitVec 6
  slot   : Nat
  pos    : Nat
  fent   : Nat
  faddr  : Word
  imprec : Bool
  fatal  : Bool
  deriving DecidableEq, Repr

/-- The roles of a segment with their parameters (R190-R193): a Flow's element size, a Fold's operation and scale. -/
inductive Role where
  | fixed
  | flow (esize : Nat)
  | fold (op : Nat) (scale : BitVec 8)
  | own
  deriving DecidableEq, Repr

/-- A tile move's kind, with TTAG and PREQ, which complete as moves do (R208, R211, R216). -/
inductive MoveKind where
  | tld | tst | tmov | tmc | tldf | tstf | tacc | ttag | preq
  deriving DecidableEq, Repr

/-- Where one byte of a move's end lies: a physical address; a virtual address with its translation, none when the page is not
present; or another device. -/
inductive PByte where
  | at (pa : Nat)
  | virt (va : Nat) (pa : Option Nat)
  | remote (dev off : Nat)
  deriving DecidableEq, Repr

/-- The Flow end of a move: die, slot, object offset and byte count of the range claimed or reserved (R204, R205). -/
structure FlowEnd where
  die  : Nat
  slot : Nat
  off  : Nat
  len  : Nat
  deriving DecidableEq, Repr

/-- What a page of a PREQ waits for (R219, R400): the host's answer, a fresh translation, or nothing more. -/
inductive PageWait where
  | host
  | translation
  | present
  | missing
  deriving DecidableEq, Repr

/-- A tile move in flight (R210): the context, task, shape register, entry, element size and count, the ends byte by byte in
element order, the objects that count it in INFLIGHT and the objects at its ends (die, slot), the Flow range, the Fold
operation and scale of each element, the multicast mask, whether a status predicate makes a TLDF soft (R204), and how it
ends: gone, broken, or quiet (status zero and no data).
asked and sent say that its requests to other devices, for its source and for its destination, have left (R407); passed counts the
elements written while the rest waits for room in the replay queue (R276).
code is TTAG's tag; data holds the source elements read already, none for one that a POISON word covers; pages the pages of
a PREQ; vread and vwrite the 4 KiB pages of window 0x0 that the move reads and writes (R398, R399); addr the address that an error of a check at commit reports (R351). -/
structure Move where
  id      : Nat
  ctx     : Nat
  uid     : Nat
  h       : Nat
  kind    : MoveKind
  entry   : Nat
  es      : Nat
  n       : Nat
  n0      : Nat
  src     : List PByte
  dst     : List PByte
  objs    : List (Nat × Nat)
  ends    : List (Nat × Nat)
  flow    : Option FlowEnd
  folds   : List (Nat × BitVec 8)
  mask    : Word
  soft    : Bool
  gone    : Bool
  broken  : Bool
  quiet   : Bool
  asked   : Bool
  sent    : Bool
  passed  : Nat
  code    : BitVec 2
  data    : Option (List (Option (List Byte)))
  pages   : List (Nat × PageWait)
  vread   : List Nat
  vwrite  : List Nat
  pasid   : BitVec 20
  addr    : Word
  deriving DecidableEq, Repr

/-- An MSEND in flight (R268): its destination is a scratchpad word, a Fold word (with operation and scale), or another
device; obj is the object it updates and counted whether a handle check counts it in INFLIGHT. It waits for accesses with ids
below after; addr is its destination address; sent says that its message to another device has left. -/
structure Msend where
  id    : Nat
  after : Nat
  addr  : Word
  ctx   : Nat
  uid   : Nat
  entry : Nat
  faddr : Word
  pos   : Nat
  dst   : List PByte
  fold  : Option (Nat × BitVec 8)
  obj   : Option (Nat × Nat)
  counted : Bool
  value : Word
  wide  : Bool
  sent  : Bool
  vwrite : List Nat
  pasid : BitVec 20
  deriving DecidableEq, Repr

/-- An end-of-stream token in flight (R271), with the fields of Msend; dev is the device and aperture offset of a window 0x1
address. -/
structure EosMsg where
  id    : Nat
  after : Nat
  addr  : Word
  ctx   : Nat
  uid   : Nat
  entry : Nat
  faddr : Word
  pos   : Nat
  obj   : Option (Nat × Nat)
  counted : Bool
  dev   : Option (Nat × Nat)
  sent  : Bool
  vwrite : List Nat
  pasid : BitVec 20
  deriving DecidableEq, Repr

/-- A buffered effect of a speculative task, in program order (R315). underway stands for one whose move, message or token a commit has
sent out under its id, with the error that it has met (R320, R322). -/
inductive Effect where
  | underway (id : Nat) (fault : Option FaultInfo)
  | write (entry : Nat) (bytes : List (Nat × Byte))
  | drain (entry : Nat) (d : Drain) (bytes : List (Nat × Byte))
  | stfl (entry pa : Nat) (v : Word)
  | arrive (entry pa : Nat) (relaxed : Bool)
  | move (m : Move)
  | msend (m : Msend)
  | eos (m : EosMsg)
  deriving DecidableEq, Repr

/-- A prelude that a task's start has not issued yet (R290, R303): source, object offset, bytes, offset from the footprint's base. -/
structure Prelude where
  src  : Word
  off  : Nat
  len  : Nat
  dst  : Nat
  deriving DecidableEq, Repr

/-- The task that a context holds: record, unique id, launch, PASID, parent, the produce entries read at its start (R290),
the barriers it is registered on (physical address and phase, R273), the entries that pre-emption added (R305), its buffered
effects, a fault that has been raised and waits to be delivered, and whether it has been killed or pruned and waits for its
asynchronous operations; and a prelude to issue. -/
structure Task where
  trec    : TaskRec
  uid     : Nat
  launch  : Nat
  pasid   : BitVec 20
  parent  : Option Nat
  produce : List Word
  regBars : List (Nat × Nat)
  extra   : Nat
  effects : List Effect
  fault   : Option FaultInfo
  dead    : Bool
  prelude : Option Prelude
  deriving DecidableEq, Repr

/-- What a trap keeps beside the save area (log 7): the address at NENT, the sync entries seen, the entries of the in-flight record, the
status predicates of moves in flight, the FST and ATTN flags that asynchronous operations set since, and the first id that
the handler's own moves take. -/
structure UserSave where
  pc       : Word
  syncs    : List Nat
  stores   : List StoreRec
  pops     : List (Nat × Write 2048)
  sldA     : List (Write 4096)
  sldB     : List (Write 4096)
  nulls    : List Nat
  preds    : List (Nat × Write 64)
  fst      : Word
  attn     : Word
  firstId  : Nat
  deriving DecidableEq, Repr

/-- A saved task that takes a context again, its save area not yet read (R371): the context it left, the area's base, the fault
it holds, whether it was speculative when it was saved, and, if so, the tags of its footprint and completion entries. -/
structure Restore where
  home  : Nat
  base  : Word
  fault : Option FaultInfo
  moved : Bool
  tags  : Sparse (BitVec 2)
  deriving DecidableEq, Repr

/-- One context (R32, R53). pc and entry are the address and the entry number of the bundle that dispatch takes next; queue holds
the bundles dispatched, oldest first, from which the slot queues of R35 are read; front the entry after the last syllable that
each slot has issued; csr the writable CSRs by number (R73); late the imprecise faults that have not been detected, each with the entry at which no slot may issue
until it is (R359); mdone the entry of each M syllable that may not be complete, with the
entry at which it is (R239, R245). -/
structure Ctx where
  task      : Option Task
  pc        : Word
  entry     : Nat
  queue     : List Disp
  front     : Sparse Nat
  syncs     : List Nat
  late      : List (Nat × FaultInfo)
  redirects : List (Nat × Word)
  nulls     : List Nat
  s         : Sparse (Cell 64)
  p         : Sparse (Cell 64)
  v         : Sparse (Cell 2048)
  shapeA    : Sparse (Cell 512)
  shapeS    : Sparse (Cell 512)
  csr       : Sparse (Cell 64)
  loop      : Option LoopSt
  lend      : List LendSt
  fmtA      : FmtSt
  fmtB      : FmtSt
  scaleA    : Cell 4096
  scaleB    : Cell 4096
  tu        : TUnit
  tiles     : List TileUpd
  mdone     : List (Nat × Nat)
  stores    : List StoreRec
  arrival   : Option (Nat × Nat)
  waitP0    : Option Nat
  pages     : List PageRes
  inHandler : Bool
  chkv      : Bool
  chka      : Word
  chkb      : Word
  chkpc     : Word
  saved     : Option UserSave
  preemptReq : Bool
  restore   : Option Restore
  deriving DecidableEq, Repr

/-- A queued record (R29, R285) with the task it will become and whether its prelude has been preloaded (R304). -/
structure QRec where
  trec      : TaskRec
  uid       : Nat
  launch    : Nat
  parent    : Option Nat
  preloaded : Bool
  deriving DecidableEq, Repr

/-- A translation cache entry (R398): a page of one PASID. -/
structure TEntry where
  pasid  : BitVec 20
  size   : BitVec 2
  vpage  : Nat
  target : Nat
  read   : Bool
  write  : Bool
  dirty  : Bool
  deriving DecidableEq, Repr

/-- What a parked entry does when it is replayed (R276): its bytes; a Fold update by an input of n bytes, whose flags have been set or are
set then; bytes of a Flow range that is published once all are written; or bytes of a TSTF whose stream was not known when it parked,
with its first address, its bytes and its elements. -/
inductive ParkKind where
  | bytes
  | fold (n : Nat) (x : Word) (told : Bool)
  | flow (f : FlowEnd)
  | produce (va n count : Nat)
  deriving DecidableEq, Repr

/-- A parked store (R276): up to 64 bytes for a page that is not present, by virtual address; a Fold update stands at the first of
them; ready once the host has answered its page request and a fresh translation is
asked; commit for a buffered effect that a commit performs (R322). entry is the entry of the move that parked it, none for an MSEND
(R359), and op the operation's id. -/
structure Parked where
  pasid : BitVec 20
  page  : Nat
  ctx   : Nat
  uid   : Nat
  ready : Bool
  bytes : List (Nat × Byte)
  kind  : ParkKind
  commit : Bool
  entry : Option Nat
  op    : Nat
  deriving DecidableEq, Repr

/-- One core (R29): the running context, the deque (oldest first), the translation cache (oldest first), the store replay
queue, CYC, the PART code of each context at its next task start (R387), whether its steal unit has stopped probing (R300), and
whether dispatch seeks the next ready context after a block event (R33). -/
structure Core where
  running : Nat
  deque   : List QRec
  tlb     : List TEntry
  replay  : List Parked
  cyc     : Word
  part    : Sparse (BitVec 3)
  stolen  : Bool
  seek    : Bool
  deriving DecidableEq, Repr

/-- A condition that is OPEN (R308); a FREE entry is unlisted. -/
structure Cond where
  pasid   : BitVec 20
  launch  : Nat
  creator : Nat
  set     : Bool
  prob    : Nat
  pred    : Bool
  site    : Nat
  deriving DecidableEq, Repr

/-- A segment of an object (R331): its end offset, role, owner and return owner. -/
structure Seg where
  stop     : Nat
  role     : Role
  owner    : Option Nat
  retOwner : Option Nat
  deriving DecidableEq, Repr

/-- The stream of an object (R191, R269): cursors, reserved ranges published out of order, mode, producers bound (task and
whether its token has arrived), counts E and D, and the final P once the stream has ended. -/
structure Stream where
  c     : Nat
  p     : Nat
  pr    : Nat
  done  : List (Nat × Nat)
  append : Bool
  n     : Nat
  prods : List (Nat × Bool)
  e     : Nat
  d     : Nat
  final : Option Nat
  deriving DecidableEq, Repr

/-- An object table entry that is LIVE or DESTROYING (R330). segrec and strec are the HBM addresses of its segment and stream
records, whose contents are segs and stream (R331); closed holds the ranges a RECAST has closed (R199). -/
structure Obj where
  live     : Bool
  recl     : Bool
  brk      : Bool
  prio     : BitVec 4
  base     : Nat
  gen      : BitVec 20
  len      : Nat
  scount   : BitVec 32
  inflight : BitVec 32
  lru      : Word
  pasid    : BitVec 20
  segrec   : BitVec 40
  strec    : BitVec 40
  segs     : List Seg
  stream   : Option Stream
  closed   : List (Nat × Nat × Nat)
  deriving DecidableEq, Repr

/-- An ATS request outstanding (R398): the page, the access type, and the contexts that wait on it, and the mailbox users: a
function by its number, a launch by 17 plus its id. -/
structure AtsReq where
  pasid : BitVec 20
  page  : Nat
  write : Bool
  ctxs  : List Nat
  fns   : List Nat
  deriving DecidableEq, Repr

/-- A page request outstanding (R400). -/
structure PageReq where
  pasid : BitVec 20
  page  : Nat
  deriving DecidableEq, Repr

/-- One die (R28): conditions, predictor, sequence numbers, Playa's table, pin counter, freed slots (oldest first), the
generations of slots that are FREE, the next slot never used, watermarks, quarantined units, margins, row copies (a row and its spare), bad spares (a bank and its spare), whether
watermark reclaim runs (R344), ATS. -/
structure Die where
  conds     : Sparse Cond
  pred      : Sparse (BitVec 8)
  nextSeq   : BitVec 48
  objs      : Sparse Obj
  gens      : Sparse (BitVec 20)
  pin       : Word
  freed     : List Nat
  nextSlot  : Nat
  low       : Nat
  high      : Nat
  quarantine : List Nat
  pendQuarantine : List Nat
  epoch     : BitVec 32
  guardBand : BitVec 8
  replan    : Bool
  rows      : List (Nat × Nat)
  badSpares : List (Nat × Nat)
  spared    : List (Nat × Nat)
  reclaiming : Bool
  ats       : List AtsReq
  pri       : List PageReq
  deriving DecidableEq, Repr

/-- A kill that a launch reports (R389, R395): the task's SEQ, the save-area base that holds its record if there is one, and the
record to be written there when the task had no context (R359). -/
structure Kill where
  seq    : Nat
  base   : Option Word
  record : List Byte
  deriving DecidableEq, Repr

/-- A launch in progress (R392-R395): the function, PASID, USER and command index, the descriptor's TVEC, TRECBASE, IRQ
and VEC, its join words (physical), the kills so far, whether torn down, its OP, the translations gathered for its kill records,
and whether a reset of its function has left it without a completion ring. -/
structure Launch where
  id      : Nat
  fn      : Nat
  pasid   : BitVec 20
  user    : BitVec 16
  index   : BitVec 16
  tvec    : Word
  trecBase : Word
  irq     : Bool
  vec     : Nat
  words   : List Nat
  kills   : List Kill
  torn    : Bool
  op      : BitVec 8
  pages   : List PageRes
  mute    : Bool
  deriving DecidableEq, Repr

/-- A saved task (R324, R371): the context's record, the context it left, the fault it holds, whether it was speculative when
it was saved, and, if so, the tags of its footprint and completion entries. -/
structure SavedTask where
  ctx    : Ctx
  home   : Nat
  fault  : Option FaultInfo
  moved  : Bool
  tags   : Sparse (BitVec 2)
  deriving DecidableEq, Repr

/-- A task that has ended while speculative and awaits commit or prune (R297): the context it left and its last entry. -/
structure EndedTask where
  task  : Task
  ctx   : Nat
  entry : Nat
  deriving DecidableEq, Repr

/-- What the device knows of a task for ownership (R193, R297): its parent and whether it has ended. -/
structure TaskInfo where
  parent : Option Nat
  ended  : Bool
  launch : Nat
  deriving DecidableEq, Repr

/-- A RECAST that has closed its range and waits for the drain (R199): the object with its generation, whether a handle check counts
it in INFLIGHT (R332), the new role with its stream's mode and producers, the operations it waits for, and its entry. -/
structure RecastSt where
  ctx    : Nat
  die    : Nat
  slot   : Nat
  gen    : BitVec 20
  counted : Bool
  start  : Nat
  len    : Nat
  role   : Role
  append : Bool
  n      : Nat
  moves  : List Nat
  sends  : List Nat
  entry  : Nat
  deriving DecidableEq, Repr

/-- A RESOLVE in progress, whose commits go on (R319, R320): its context and task, its die and condition, the tasks that it commits, in
ascending SEQ. -/
structure ResolveSt where
  ctx   : Nat
  uid   : Nat
  die   : Nat
  cond  : Nat
  tasks : List Nat
  deriving DecidableEq, Repr

/-- An MSI-X vector of a function (R385, R391). oldest is the tick of the oldest pending record. -/
structure VecSt where
  count   : BitVec 8
  window  : BitVec 16
  arm     : Bool
  pending : BitVec 16
  oldest  : Word
  deriving DecidableEq, Repr

/-- The mailbox registers of a function (R385), its PASIDs (R383), the command in application with the translations gathered for
it, whether its flag word has been acquired, the word's physical number and the state of the wait while it waits (R388), and the launch
and next root of a LAUNCH whose roots are being placed (R393). -/
structure FnRegs where
  ringBase : Word
  ringSize : Nat
  tail     : BitVec 16
  head     : BitVec 16
  cplBase  : Word
  cplSize  : Nat
  cplTail  : BitVec 16
  cplHead  : BitVec 16
  regErr   : Bool
  run      : Bool
  vecs     : Sparse VecSt
  pasids   : List (BitVec 20)
  waiting  : Option Command
  pages    : List PageRes
  acquired : Bool
  flag     : Option (Nat × Block)
  placing  : Option (Nat × Nat)
  deriving DecidableEq, Repr

/-- The dirty log of a PASID (R401): function, address, entries. -/
structure DLog where
  fn      : Nat
  base    : Nat
  entries : Nat
  deriving DecidableEq, Repr

/-- An entry of the table of exports (R406). -/
structure Export where
  start : Nat
  len   : Nat
  die   : Nat
  slot  : Nat
  gen   : BitVec 20
  off   : Nat
  perm  : BitVec 3
  reduce : Bool
  key   : BitVec 32
  deriving DecidableEq, Repr

/-- A reduction window (R408). -/
structure RedWin where
  home  : Nat
  start : Nat
  len   : Nat
  op    : Nat
  scale : BitVec 8
  count : Nat
  group : Nat
  deriving DecidableEq, Repr

/-- What the device has sent outward. -/
inductive Msg where
  | msix (fn vec : Nat)
  | atsRequest (die : Nat) (pasid : BitVec 20) (page : Nat) (write : Bool)
  | pageRequest (pasid : BitVec 20) (page : Nat)
  | invalidationDone (pasid : BitVec 20) (start len : Nat)
  | unsupported (offset : Nat)
  | fabric (dev off : Nat) (key : BitVec 32) (op : FabricOp)
  | fabricReply (source : Nat) (cause : BitVec 8) (bytes : List Byte)
  deriving DecidableEq, Repr

/-- A residue failure that will strike the next syllable of a slot of a context (R360): the lanes of V that fail; the lowest failing
element of T, MA or MB, whether more fail, and, for an MCMA, the part and the array that fail (R366). -/
structure Residue where
  ctx   : Nat
  slot  : Slot
  lanes : Word
  row   : Nat
  col   : Nat
  many  : Bool
  imag  : Bool
  lo    : Bool
  deriving DecidableEq, Repr

/-- An uncorrectable or fabric error that will be met (R322, R359, R378): by the next read of the scratchpads by a slot of a context,
whose record names the syllable or not; by the next effect of a task that a commit performs; by the next copy that the mailbox
makes for a function; by the preload of a record (R304); by a
message in flight, with the cause that its delivery meets (R210, R268, R271). -/
inductive Strike where
  | read (ctx : Nat) (slot : Slot) (named : Bool)
  | commit (uid : Nat) (fabric : Bool)
  | copy (fn : Nat)
  | preload (uid : Nat)
  | message (id : Nat) (cause : BitVec 8)
  deriving DecidableEq, Repr

/-- A TLDF of another device's task that has claimed its elements and waits for them (R204, R346, R407). -/
structure HeldReq where
  req  : FabricReq
  die  : Nat
  slot : Nat
  gen  : BitVec 20
  off  : Nat
  n    : Nat
  deriving DecidableEq, Repr

/-- An invalidation that waits for accesses translated through the removed entries (R399): PASID, range, the removed entries
whose dirty bits it will log, the moves and sends it waits for. -/
structure Inval where
  pasid  : BitVec 20
  start  : Nat
  len    : Nat
  dirty  : List TEntry
  moves  : List Nat
  sends  : List Nat
  deriving DecidableEq, Repr

/-- A choice that the schedule makes (log 6): which event happens, which core moves, which slot of a context issues, that a context
dispatches ahead of slots that lag, that an engine's command queue is full, how many mailbox ticks pass, which syllable a residue
check fails on, which error is met, that the next imprecise fault of a context is not detected at once, what the host writes into its
own memory. -/
inductive Choice where
  | event (i : Instr)
  | turn (core : Nat)
  | issue (ctx : Nat) (slot : Slot)
  | dispatch (ctx : Nat)
  | full (ctx : Nat) (slot : Slot)
  | ticks (n : Nat)
  | residue (r : Residue)
  | strike (k : Strike)
  | lag (ctx : Nat)
  | host (pa : Nat) (bytes : List Byte)
  deriving DecidableEq, Repr

/-- The syllable in issue: its context, its slot, its entry, its bundle's address, its position in its bundle, and the opcode that
names it in a record. -/
structure Cur where
  ctx   : Nat
  slot  : Slot
  entry : Nat
  pc    : Word
  pos   : Nat
  op    : BitVec 6
  deriving DecidableEq, Repr

/-- The whole device. arrivals holds the functions with commands that have arrived and are not applied, with their number, in the order
of arrival (R387); flash holds the firmware image and config the configuration block in flash (R409). -/
structure State where
  cur      : Cur
  ctxs     : Sparse Ctx
  cores    : Sparse Core
  dies     : Sparse Die
  mem      : List Host.Cell
  tags     : Sparse (BitVec 2)
  moves    : List Move
  msends   : List Msend
  eoss     : List EosMsg
  recasts  : List RecastSt
  resolves : List ResolveSt
  requests : List HeldReq
  saved    : List SavedTask
  ended    : List EndedTask
  tasks    : Sparse TaskInfo
  launches : List Launch
  fns      : Sparse FnRegs
  arrivals : List (Nat × Nat)
  clusterFn : Sparse Nat
  tick     : Word
  dlogs    : Sparse DLog
  unlogged : List TEntry
  invals   : List Inval
  fabId    : Nat
  fkeys    : Sparse (BitVec 32)
  exports  : Sparse Export
  redwins  : Sparse RedWin
  recovery : Bool
  flash    : List Byte
  config   : List Byte
  running  : List Byte
  out      : List Msg
  residues : List Residue
  strikes  : List Strike
  lags     : List Nat
  nextId   : Nat
  free     : Nat
  sched    : List Choice
  focus    : Nat
  evTurn   : Bool
  deriving DecidableEq, Repr

/-- FP32 for both operands, the pair at task start (R220). -/
def FmtSt.start : FmtSt := ⟨(.fp32, .fp32), (.fp32, .fp32), 0, none, none⟩

/-- A bank that is not lent. -/
def LendSt.start : LendSt := ⟨none, none, 0⟩

/-- A scale buffer whose every byte is 0x7F, its contents at task start (R220). -/
def scaleStart : ScaleBuf := BitVec.ofNat 4096 (0x7F * ((2 ^ 4096 - 1) / 255))

/-- The transpose unit at task start (R184). -/
def TUnit.start : TUnit := ⟨64, 0, [], 0, 0, []⟩

/-- A context that holds no task, as reset leaves it (log 2). -/
def Ctx.idle : Ctx where
  task := none
  pc := 0
  entry := 1
  queue := []
  front := []
  syncs := []
  late := []
  redirects := []
  nulls := []
  s := []
  p := []
  v := []
  shapeA := []
  shapeS := []
  csr := []
  loop := none
  lend := [LendSt.start, LendSt.start, LendSt.start, LendSt.start]
  fmtA := FmtSt.start
  fmtB := FmtSt.start
  scaleA := Cell.of scaleStart
  scaleB := Cell.of scaleStart
  tu := TUnit.start
  tiles := []
  mdone := []
  stores := []
  arrival := none
  waitP0 := none
  pages := []
  inHandler := false
  chkv := false
  chka := 0
  chkb := 0
  chkpc := 0
  saved := none
  preemptReq := false
  restore := none

/-- A core at reset: nothing queued, translated or parked; CYC counts from reset (R141). -/
def Core.start : Core := ⟨0, [], [], [], 0, [], false, false⟩

/-- A die at reset: conditions FREE, predictor entries 128 (the reading of an unlisted entry), no object, watermarks of
4 GiB and 8 GiB (R308, R313, R344, R348). -/
def Die.start : Die where
  conds := []
  pred := []
  nextSeq := 0
  objs := []
  gens := []
  pin := 0
  freed := []
  nextSlot := 0
  low := 4294967296
  high := 8589934592
  quarantine := []
  pendQuarantine := []
  epoch := 0
  guardBand := 0
  replan := false
  rows := []
  badSpares := []
  spared := []
  reclaiming := false
  ats := []
  pri := []

/-- A function's mailbox registers at reset (log 2). -/
def FnRegs.start : FnRegs := ⟨0, 0, 0, 0, 0, 0, 0, 0, false, false, [], [], none, [], false, none, none⟩

/-- The device right after reset: no task, every cluster with PF0 (R383), no PASID assigned, memory with nothing listed. -/
def State.reset : State where
  cur := ⟨0, .s0, 0, 0, 0, 0⟩
  ctxs := []
  cores := []
  dies := []
  mem := []
  tags := []
  moves := []
  msends := []
  eoss := []
  recasts := []
  resolves := []
  requests := []
  saved := []
  ended := []
  tasks := []
  launches := []
  fns := []
  arrivals := []
  clusterFn := []
  tick := 0
  dlogs := []
  unlogged := []
  invals := []
  fabId := 0
  fkeys := []
  exports := []
  redwins := []
  recovery := false
  flash := []
  config := []
  running := []
  out := []
  residues := []
  strikes := []
  lags := []
  nextId := 1
  free := 0
  sched := []
  focus := 0
  evTurn := false

/-- Why the machine stops. -/
inductive Fault where
  /-- Raised by TRANSLATION_RESPONSE when a page that it grants lies outside host memory and outside the 1,024 GB
  of HBM that exist (R2, R382, R398; log 108). Safe: what the device does there is not given. -/
  | unbackedMemory (pa : Nat)
  deriving DecidableEq, Repr

/-- Why an instruction is refused. -/
inductive Refusal where
  /-- Raised by an arm of exec that has no meaning yet. Safe: nothing is claimed of it. -/
  | notModelled (mnemonic : String)
  deriving DecidableEq, Repr

/-- The outcome of a step of this machine. -/
abbrev Out := Host.Outcome State Fault Refusal

end Sys2Proof.Machine
end

