-- ==== Sys2Proof/Machine/Regs.lean ====
section
/-! DEFINITION. Contexts, cores and dies by number; registers as cells: what a slot sees of the writes in flight, landing,
the pending bits (R35-R47). -/

namespace Sys2Proof.Machine

/-- A context by its index. -/
def State.ctx (s : State) (c : Nat) : Ctx := Sparse.get Ctx.idle s.ctxs c

/-- Replace a context. -/
def State.setCtx (s : State) (c : Nat) (x : Ctx) : State := { s with ctxs := Sparse.put s.ctxs c x }

/-- Change a context. -/
def State.modCtx (s : State) (c : Nat) (f : Ctx → Ctx) : State := s.setCtx c (f (s.ctx c))

/-- The context whose syllable is in issue. -/
def State.cx (s : State) : Ctx := s.ctx s.cur.ctx

/-- Change the context whose syllable is in issue. -/
def State.modCx (s : State) (f : Ctx → Ctx) : State := s.modCtx s.cur.ctx f

/-- The core, cluster (0-15) and die of a context. -/
def coreOf (c : Nat) : Nat := c / 4
def clusterOf (c : Nat) : Nat := c / 32
def dieOf (c : Nat) : Nat := c / 256

/-- The cluster and die of a core. -/
def clusterOfCore (q : Nat) : Nat := q / 8
def dieOfCore (q : Nat) : Nat := q / 64

/-- A core by its number. -/
def State.core (s : State) (q : Nat) : Core := Sparse.get Core.start s.cores q

/-- Change a core. -/
def State.modCore (s : State) (q : Nat) (f : Core → Core) : State := { s with cores := Sparse.put s.cores q (f (s.core q)) }

/-- A die by its number. -/
def State.die (s : State) (d : Nat) : Die := Sparse.get Die.start s.dies d

/-- Change a die. -/
def State.modDie (s : State) (d : Nat) (f : Die → Die) : State := { s with dies := Sparse.put s.dies d (f (s.die d)) }

/-- The mailbox registers of a function. -/
def State.fn (s : State) (n : Nat) : FnRegs := Sparse.get FnRegs.start s.fns n

/-- Change the mailbox registers of a function. -/
def State.modFn (s : State) (n : Nat) (f : FnRegs → FnRegs) : State := { s with fns := Sparse.put s.fns n (f (s.fn n)) }

/-- Draw a free choice (log 1). -/
def State.freeBool (s : State) : Bool × State := (Config.freeBool s.free, { s with free := s.free + 1 })

/-- Draw free bits (log 1). -/
def State.freeBits (w : Nat) (s : State) : BitVec w × State := (Config.freeBits w s.free, { s with free := s.free + 1 })

/-- n free bytes, from a number of the free stream on, and the number after them. -/
def freeBytes (n f : Nat) : List Byte := (List.range n).map fun i => Config.freeBits 8 (f + i)

/-- A register whose writes have no effect; a predicate that reads all ones (R53). -/
def Ctx.sreg (x : Ctx) (r : Nat) : Cell 64 := Sparse.get (Cell.of 0) x.s r
def Ctx.preg (x : Ctx) (r : Nat) : Cell 64 := Sparse.get (Cell.of 0) x.p r
def Ctx.vreg (x : Ctx) (r : Nat) : Cell 2048 := Sparse.get (Cell.of 0) x.v r
def Ctx.csrCell (x : Ctx) (r : Nat) : Cell 64 := Sparse.get (Cell.of 0) x.csr r

/-- Shape registers are numbered 4·slot + h with the slot codes of SHW (R72): MA 0, MB 1, T 2, X 3. -/
def Ctx.shapeActive (x : Ctx) (r : Nat) : Cell 512 := Sparse.get (Cell.of 0) x.shapeA r
def Ctx.shapeShadow (x : Ctx) (r : Nat) : Cell 512 := Sparse.get (Cell.of 0) x.shapeS r

/-- A value with a write applied. -/
def Write.apply {w : Nat} (k : Write w) (v : BitVec w) : BitVec w := blend v k.mask k.val

/-- What a slot sees of a write: the new value, the old one, or either (R40). -/
inductive Seen where
  | new | old | either
  deriving DecidableEq, Repr

/-- A sync bundle lies at some entry b with e < b and b + lat ≤ c (R43). -/
def syncCovers (syncs : List Nat) (e lat c : Nat) : Bool := syncs.any fun b => e < b && b + lat ≤ c

/-- What slot sl sees at entry c of a write issued by slot w at entry e with bound lat and landing entry land, exact or
not (R40-R43). A syllable that waits at entry c reads its operands as at its issue, before the results that its wait brings forward to c
(R45). Syllables of one bundle are not ordered with each other (R251, R415), but those of a sync bundle issue in one cycle, so that each
reads before any of them writes (R38; log 8). -/
def seenBy (syncs : List Nat) (sl w : Slot) (e lat land : Nat) (exact : Bool) (c : Nat) : Seen :=
  if w = sl then
    if land < c then .new else if c ≤ e then .old else if exact then .old else .either
  else if syncCovers syncs e lat c then .new
  else if c < e || (c = e && syncs.contains e) then .old
  else .either

/-- The value a register has when every landed write is applied. -/
def Cell.settled {w : Nat} (c : Cell w) : BitVec w := c.landed.foldl (fun v k => k.apply v) c.base

/-- One write's part of a read: the value, and the next entry of the free stream. -/
def Write.readStep {w : Nat} (syncs : List Nat) (sl : Slot) (now : Nat) (r : BitVec w × Nat) (k : Write w) : BitVec w × Nat :=
  match seenBy syncs sl k.slot k.entry k.lat k.land k.exact now with
  | .new => (k.apply r.1, r.2)
  | .old => r
  | .either => (if Config.freeBool r.2 then k.apply r.1 else r.1, r.2 + 1)

/-- The writes of a register in the order in which they take effect: those landed, then the others by landing entry (R44). -/
def Cell.writes {w : Nat} (c : Cell w) : List (Write w) := c.landed ++ sortBy Write.land c.pend

/-- What a slot of a context reads from a register at its entry e, and the next entry of the free stream (R40-R44). -/
def Cell.read {w : Nat} (syncs : List Nat) (sl : Slot) (e : Nat) (c : Cell w) (f : Nat) : BitVec w × Nat :=
  c.writes.foldl (Write.readStep syncs sl e) (c.base, f)

/-- The writes of a list that are seen when a write is seen only with every one before it, and the next entry of the free stream: the
contents of a scale buffer, whose SLDs take effect in order (R235). -/
def seenPrefix {w : Nat} (syncs : List Nat) (sl : Slot) (e : Nat) : List (Write w) → Nat → List (Write w) × Nat
  | [], f => ([], f)
  | k :: ks, f =>
    match seenBy syncs sl k.slot k.entry k.lat k.land k.exact e with
    | .old => ([], f)
    | .new =>
      let p := seenPrefix syncs sl e ks f
      (k :: p.1, p.2)
    | .either =>
      if Config.freeBool f then
        let p := seenPrefix syncs sl e ks (f + 1)
        (k :: p.1, p.2)
      else ([], f + 1)

/-- What a slot reads at its entry e from a register whose writes take effect in order (R235). -/
def Cell.readInOrder {w : Nat} (syncs : List Nat) (sl : Slot) (e : Nat) (c : Cell w) (f : Nat) : BitVec w × Nat :=
  let p := seenPrefix syncs sl e c.writes f
  (p.1.foldl (fun v k => k.apply v) c.base, p.2)

/-- A register with a write issued. -/
def Cell.push {w : Nat} (c : Cell w) (k : Write w) : Cell w := { c with pend := c.pend ++ [k] }

/-- A register with bits changed for every slot at once: stage predicates (R153), flags that asynchronous operations set
(R140, R142). -/
def Cell.poke {w : Nat} (c : Cell w) (mask val : BitVec w) : Cell w :=
  { c with base := blend c.base mask val, landed := c.landed.map fun k => { k with val := blend k.val mask val } }

/-- The landings of two writes are not ordered by a sync bundle between them, or they stand in one bundle (R44). -/
def unordered (syncs : List Nat) (sa : Slot) (e1 m1 : Nat) (sb : Slot) (e2 m2 : Nat) : Bool :=
  sa ≠ sb && (e1 = e2 || !(syncs.any fun b => m1 < b && b ≤ m2))

/-- Place a landing write among the landed ones, the newest first: after a write that it is not ordered with, or before it,
whichever the free stream says (R44). -/
def placeLanded {w : Nat} (syncs : List Nat) (k : Write w) : List (Write w) → Nat → List (Write w) × Nat
  | [], f => ([k], f)
  | r :: rs, f =>
    if unordered syncs r.slot r.entry r.land k.slot k.entry k.land && (r.mask &&& k.mask) ≠ 0 then
      if Config.freeBool f then
        let p := placeLanded syncs k rs (f + 1)
        (r :: p.1, p.2)
      else (k :: r :: rs, f + 1)
    else (k :: r :: rs, f)

/-- Every slot sees a landed write from entry c on. -/
def Write.known {w : Nat} (syncs : List Nat) (c : Nat) (k : Write w) : Bool := k.land < c && syncCovers syncs k.entry k.lat c

/-- Absorb into the base the oldest landed writes that every slot sees. -/
def absorb {w : Nat} (syncs : List Nat) (c : Nat) : BitVec w → List (Write w) → BitVec w × List (Write w)
  | v, [] => (v, [])
  | v, k :: ks => if k.known syncs c then absorb syncs c (k.apply v) ks else (v, k :: ks)

/-- A write is due: its slot has issued its landing entry (R39). reach gives the first entry that a slot has not issued. -/
def Write.isDue {w : Nat} (reach : Slot → Nat) (k : Write w) : Bool := k.land < reach k.slot

/-- Land the writes of a register that are due (R39, R44); every slot has issued the entries below low. -/
def Cell.land {w : Nat} (syncs : List Nat) (reach : Slot → Nat) (low : Nat) (r : Cell w) (f : Nat) : Cell w × Nat :=
  let due := sortBy Write.land (r.pend.filter fun k => k.isDue reach)
  let p := due.foldl (fun (acc : List (Write w) × Nat) k => placeLanded syncs k acc.1 acc.2) (r.landed.reverse, f)
  let a := absorb syncs low r.base p.1.reverse
  (⟨a.1, a.2, r.pend.filter fun k => !k.isDue reach⟩, p.2)

/-- The landing entry of a status write that waits for its move and for a TWAIT: above every entry number. -/
def statusBase : Nat := 2 ^ 64

/-- Bring the landing of a slot's writes forward to entry c (R45). The status of a move stays with its move (R211). -/
def Cell.hasten {w : Nat} (sl : Slot) (c : Nat) (r : Cell w) : Cell w :=
  { r with pend := r.pend.map fun k => if k.slot = sl && c < k.land && k.land < statusBase then { k with land := c } else k }

/-- A register with everything landed and settled, as a save leaves it (R355): the landed writes in order, then the pending
ones in order of landing. -/
def Cell.settle {w : Nat} (r : Cell w) : Cell w :=
  Cell.of ((sortBy Write.land r.pend).foldl (fun v k => k.apply v) r.settled)

/-- Some write of a register is due. -/
def Cell.due {w : Nat} (reach : Slot → Nat) (r : Cell w) : Bool := r.pend.any fun k => k.isDue reach

/-- Apply to every register of a sparse register file, passing the free stream along. -/
def mapRegs {w : Nat} (g : Cell w → Nat → Cell w × Nat) : Sparse (Cell w) → Nat → Sparse (Cell w) × Nat
  | [], f => ([], f)
  | (i, c) :: m, f =>
    let r := g c f
    let p := mapRegs g m r.2
    ((i, r.1) :: p.1, p.2)

/-- Bring forward to entry c the landing of every register result of one slot of a context (R45). -/
def Ctx.hastenRegs (x : Ctx) (sl : Slot) (c : Nat) : Ctx :=
  { x with
    s := x.s.map fun e => (e.1, e.2.hasten sl c)
    p := x.p.map fun e => (e.1, e.2.hasten sl c)
    v := x.v.map fun e => (e.1, e.2.hasten sl c)
    shapeS := x.shapeS.map fun e => (e.1, e.2.hasten sl c)
    csr := x.csr.map fun e => (e.1, e.2.hasten sl c)
    scaleA := x.scaleA.hasten sl c
    scaleB := x.scaleB.hasten sl c }

/-- A scratchpad byte that a record wrote, or the byte it replaced. -/
def StoreRec.newAt (r : StoreRec) (a : Nat) : Option Byte := (r.bytes.find? fun e => e.1 = a).map (·.2)
def StoreRec.oldAt (r : StoreRec) (a : Nat) : Option Byte := (r.old.find? fun e => e.1 = a).map (·.2)

/-- A byte of the own scratchpad as a reader sees it: the records newest first, each with whether the reader sees its write,
over the byte in memory (R41, R44). -/
def viewByte : List (StoreRec × Bool) → Byte → Nat → Byte
  | [], v, _ => v
  | (r, sees) :: rs, v, a =>
    if r.landed then
      match r.oldAt a with
      | none => viewByte rs v a
      | some o => if sees then v else viewByte rs o a
    else
      match r.newAt a with
      | some b => if sees then b else viewByte rs v a
      | none => viewByte rs v a

/-- What a slot sees at its entry e of a record: its own slot's once they have landed (R41, R45), else as R40 to R43 say. -/
def StoreRec.seen (syncs : List Nat) (sl : Slot) (e : Nat) (r : StoreRec) : Seen :=
  if r.slot = sl && r.landed then .new else seenBy syncs sl r.slot r.entry r.lat r.land true e

/-- Which records a slot sees at its entry e, newest first, and the next entry of the free stream: those landed, then the others by
landing entry (R44). -/
def viewRecs (syncs : List Nat) (sl : Slot) (e : Nat) : List StoreRec → Nat → List (StoreRec × Bool) × Nat
  | rs, f =>
    (rs.filter (·.landed) ++ sortBy StoreRec.land (rs.filter fun r => !r.landed)).foldl
      (fun (acc : List (StoreRec × Bool) × Nat) r =>
        match r.seen syncs sl e with
        | .new => ((r, true) :: acc.1, acc.2)
        | .old => ((r, false) :: acc.1, acc.2)
        | .either => ((r, Config.freeBool acc.2) :: acc.1, acc.2 + 1))
      ([], f)

/-- Bytes of scratchpads and stores as an S or V load of a slot at its entry e sees them (R41-R44), and the next free entry. -/
def viewBytes (x : Ctx) (sl : Slot) (e : Nat) (m : List Host.Cell) (as : List Nat) (f : Nat) : List Byte × Nat :=
  let d := viewRecs x.syncs sl e (x.stores.filter fun r => as.any fun a => (r.newAt a).isSome) f
  (as.map fun a => viewByte d.1 (byteAt m a) a, d.2)

/-- Bytes as an engine or an X syllable at entry e sees them: every older write of its context, in the order of their landings
(R44, R213, R229). -/
def engineBytes (x : Ctx) (e : Nat) (m : List Host.Cell) (as : List Nat) : List Byte :=
  let d := (sortBy StoreRec.land (x.stores.filter fun r => r.entry < e && !r.landed)).reverse.map fun r => (r, true)
  if d.isEmpty then as.map (byteAt m) else as.map fun a => viewByte d (byteAt m a) a

/-- The bytes of a landing record that prevail over a landed record it is not ordered with (R44). -/
def landBytes (syncs : List Nat) (r : StoreRec) : List StoreRec → List (Nat × Byte) → Nat → List (Nat × Byte) × Nat
  | [], bs, f => (bs, f)
  | o :: os, bs, f =>
    if o.landed && unordered syncs o.slot o.entry o.land r.slot r.entry r.land && (bs.any fun e => (o.newAt e.1).isSome) then
      if Config.freeBool f then landBytes syncs r os (bs.filter fun e => (o.newAt e.1).isNone) (f + 1)
      else landBytes syncs r os bs (f + 1)
    else landBytes syncs r os bs f

/-- Land one record: memory takes its bytes, the record keeps what they replaced. -/
def landOne (syncs : List Nat) (done : List StoreRec) (r : StoreRec) (m : List Host.Cell) (f : Nat) :
    StoreRec × List Host.Cell × Nat :=
  let p := landBytes syncs r done r.bytes f
  ({ r with bytes := p.1, old := p.1.map (fun e => (e.1, byteAt m e.1)), landed := true }, writeAll m p.1, p.2)

/-- Land the records of a list, in the list's order. -/
def landAll (syncs : List Nat) : List StoreRec → List StoreRec → List Host.Cell → Nat → List StoreRec × List Host.Cell × Nat
  | done, [], m, f => (done, m, f)
  | done, r :: rs, m, f =>
    let p := landOne syncs done r m f
    landAll syncs (done ++ [p.1]) rs p.2.1 p.2.2

/-- Land the scratchpad writes of a context for which a test holds, in order of their landing entries (R39, R41, R44). -/
def State.landStores (s : State) (c : Nat) (test : StoreRec → Bool) : State :=
  let x := s.ctx c
  let due := sortBy StoreRec.land (x.stores.filter fun r => !r.landed && test r)
  let p := landAll x.syncs (x.stores.filter (·.landed)) due s.mem s.free
  let keep := x.stores.filter fun r => !r.landed && !test r
  { s with mem := p.2.1, free := p.2.2 }.setCtx c { x with stores := p.1 ++ keep }

/-- A landed record that every slot sees is settled (R43). -/
def StoreRec.known (syncs : List Nat) (c : Nat) (r : StoreRec) : Bool :=
  r.landed && r.land < c && syncCovers syncs r.entry r.lat c

/-- Bring forward to entry c the effects of slot T on the transpose unit (R45). -/
def TUnit.hasten (u : TUnit) (c : Nat) : TUnit := { u with pend := u.pend.map fun p => (min p.1 c, p.2) }

/-- Before an interlocked or blocking syllable acts, every pending result of its own slot lands, at its entry (R45). -/
def State.landSlot (s : State) : State :=
  let e := s.cur.entry
  (s.modCx fun x =>
    { x.hastenRegs s.cur.slot e with
      tu := if s.cur.slot = .t then x.tu.hasten e else x.tu
      stores := x.stores.map fun r => if r.slot = s.cur.slot && !r.landed && e < r.land then { r with land := e } else r }).landStores
    s.cur.ctx fun r => r.slot = s.cur.slot

/-- CSR numbers (R73). -/
def csrCTL : Nat := 0
def csrFST : Nat := 1
def csrATTN : Nat := 6
def csrTT (t w : Nat) : Nat := 16 + 8 * t + w
def csrTVEC : Nat := 2048
def csrTCAUSE : Nat := 2049
def csrTREC : Nat := 2050
def csrEPC : Nat := 2051
def csrSSTAT : Nat := 2052
def csrPREEMPT : Nat := 2053

/-- Change a CSR of a context for every slot at once. -/
def Ctx.pokeCsr (x : Ctx) (n : Nat) (mask val : Word) : Ctx := { x with csr := Sparse.put x.csr n ((x.csrCell n).poke mask val) }

/-- Set a CSR of a context, with nothing outstanding. -/
def Ctx.putCsr (x : Ctx) (n : Nat) (val : Word) : Ctx := { x with csr := Sparse.put x.csr n (Cell.of val) }

/-- Supervisor mode: SSTAT.MODE (R363). -/
def Ctx.supervisor (x : Ctx) : Bool := (x.csrCell csrSSTAT).settled.getLsbD 0

/-- The task of a context is speculative: its condition list is not empty (R310). -/
def Ctx.speculative (x : Ctx) : Bool :=
  match x.task with
  | some t => !t.trec.conds.isEmpty
  | none => false

/-- The bundle from which the syllable in issue comes. -/
def Ctx.dispAt (x : Ctx) (e : Nat) : Disp :=
  match x.queue.find? fun d => d.entry = e with
  | some d => d
  | none => ⟨e, x.pc, 1, false, x.redirects, x.nulls, x.loop, []⟩
def State.disp (s : State) : Disp := s.cx.dispAt s.cur.entry

/-- The oldest bundle that holds a syllable of a slot that has not issued. -/
def Ctx.nextOf (x : Ctx) (sl : Slot) : Option Disp := x.queue.find? fun d => d.left.any fun q => q.slot = sl

/-- The first entry that a slot has not issued; it issues its bubbles as soon as it can (R35, R36). -/
def Ctx.reach (x : Ctx) (sl : Slot) : Nat :=
  max (Sparse.get 0 x.front sl.num) (match x.nextOf sl with
    | some d => d.entry
    | none => x.entry)

/-- Every slot has issued the entries below this one. -/
def Ctx.low (x : Ctx) : Nat :=
  match x.queue.find? fun d => !d.left.isEmpty with
  | some d => d.entry
  | none => x.entry

/-- A write by the syllable in issue. -/
def State.mkWrite {w : Nat} (s : State) (lat : Nat) (exact : Bool) (mask val : BitVec w) : Write w :=
  let e := s.cur.entry
  ⟨s.cur.slot, e, lat, e + lat, exact, mask, val⟩

/-- Write a scalar register with bound L (R39); s0 ignores writes (R53). -/
def State.writeS (s : State) (d : BitVec 5) (lat : Nat) (v : Word) : State :=
  if d = 0 then s else
    s.modCx fun x => { x with s := Sparse.put x.s d.toNat ((x.sreg d.toNat).push (s.mkWrite lat false (BitVec.allOnes 64) v)) }

/-- Write a predicate with bound L (R39); p0 ignores writes (R53). -/
def State.writeP (s : State) (d : BitVec 4) (lat : Nat) (v : Word) : State :=
  if d = 0 then s else
    s.modCx fun x => { x with p := Sparse.put x.p d.toNat ((x.preg d.toNat).push (s.mkWrite lat false (BitVec.allOnes 64) v)) }

/-- Write the lanes of a vector register under a mask of bits, with bound L (R39). -/
def State.writeV (s : State) (d : BitVec 5) (lat : Nat) (exact : Bool) (mask v : VReg) : State :=
  s.modCx fun x => { x with v := Sparse.put x.v d.toNat ((x.vreg d.toNat).push (s.mkWrite lat exact mask v)) }

/-- Write bits of a CSR, with bound L (R136, R140). -/
def State.writeCsr (s : State) (n lat : Nat) (mask v : Word) : State :=
  s.modCx fun x => { x with csr := Sparse.put x.csr n ((x.csrCell n).push (s.mkWrite lat false mask v)) }

end Sys2Proof.Machine
end

