-- ==== Sys2Proof/Machine/Flags.lean ====
section
/-! DEFINITION. The fields of CTL and the sticky flags of FST and ATTN, and how each is set (R138-R142). -/

namespace Sys2Proof.Machine

/-- The bits of CTL (R138). -/
def ctlFzn (v : Word) : Bool := v.getLsbD 0
def ctlRm (v : Word) : BitVec 2 := v.extractLsb' 1 2
def ctlSat (v : Word) : Bool := v.getLsbD 3
def ctlPend (v : Word) : Bool := v.getLsbD 4
def ctlPart (v : Word) : BitVec 3 := v.extractLsb' 5 3

/-- FST and ATTN flags (R139, R142). -/
def flagNV : Word := 1
def flagOF : Word := 2
def flagUF : Word := 4
def flagNX : Word := 8
def flagQNAN : Word := 16
def flagQINF : Word := 32
def flagQSAT : Word := 64
def flagBRK : Word := 128
def attnGONE : Word := 1
def attnMERR : Word := 2
def attnNRES : Word := 4
def attnEDROP : Word := 8

/-- Set flags of a context's FST at once (R140). While a handler runs, the interrupted task's FST takes them at its return. -/
def State.setFst (s : State) (c : Nat) (flags : Word) : State :=
  if flags = 0 then s else s.modCtx c fun x =>
    match x.saved with
    | some u => { x with saved := some { u with fst := u.fst ||| flags } }
    | none => x.pokeCsr csrFST flags flags

/-- Set flags of a context's ATTN at once (R142), likewise. -/
def State.setAttn (s : State) (c : Nat) (flags : Word) : State :=
  if flags = 0 then s else s.modCtx c fun x =>
    match x.saved with
    | some u => { (x.pokeCsr csrATTN flags flags) with saved := some { u with attn := u.attn ||| flags } }
    | none => x.pokeCsr csrATTN flags flags

/-- Set FST flags at a landing entry (R140). -/
def State.flagFst (s : State) (lat : Nat) (flags : Word) : State :=
  if flags = 0 then s else s.writeCsr csrFST lat flags flags

end Sys2Proof.Machine
end

