-- ==== Sys2Proof/Machine/Xlate.lean ====
section
/-! DEFINITION. Windows (R55-R57), faults by class and sub-cause (R351), locators (R286), translation with its cache, its
requests and the dirty log (R398-R402). -/

namespace Sys2Proof.Machine

/-- A fault before its place is known: class, sub-cause, immediate and details (R351, R366). -/
structure Flt where
  cls  : BitVec 8
  sub  : BitVec 8
  imm  : BitVec 16
  det0 : Word
  det1 : Word
  deriving DecidableEq, Repr

/-- A fault with no immediate. -/
def flt (cls sub : BitVec 8) (det0 det1 : Word) : Flt := ⟨cls, sub, 0, det0, det1⟩

/-- The window faults of R351 by sub-cause. -/
def wWindow (a : Word) : Flt := flt 0x03 1 a 0
def wLimit (a : Word) : Flt := flt 0x03 2 a 0
def wMisaligned (a : Word) : Flt := flt 0x03 3 a 0
def wFootprint (a : Word) : Flt := flt 0x03 4 a 0
def wShape (a : Word) : Flt := flt 0x03 5 a 0
def wHandle (a h : Word) : Flt := flt 0x03 6 a h
def wStale (a h : Word) : Flt := flt 0x03 7 a h
def wCount (a h : Word) : Flt := flt 0x03 8 a h
def wBarrier (a : Word) : Flt := flt 0x03 9 a 0
def wPoison (a : Word) : Flt := flt 0x03 10 a 0
def wTemplate (a : Word) : Flt := flt 0x03 11 a 0
def wJoin (a : Word) : Flt := flt 0x03 12 a 0
def wCondition (a : Word) : Flt := flt 0x03 13 a 0

/-- The role faults of R351: the sub-cause 0 where the rule names none. -/
def roleFlt (sub : BitVec 8) (a h : Word) : Flt := flt 0x05 sub a h

/-- Window, field checks and region limit of an n-byte access to windows 0x8 to 0xB through core q: the physical number, or
the precise window fault with the first failing byte (R55-R57, R59, R366). -/
def storeWin (q : Nat) (a : Word) (n : Nat) : Except Flt Nat :=
  let go (bits base : Nat) : Except Flt Nat :=
    let off := wfld a 0 bits
    if off + n ≤ 2 ^ bits then .ok (base + off) else .error (wLimit (a - BitVec.ofNat 64 off + BitVec.ofNat 64 (2 ^ bits)))
  match wfld a 60 4 with
  | 8 => if wfld a 22 38 = 0 then go 22 (spadPA q 0) else .error (wWindow a)
  | 9 => if wfld a 23 37 = 0 then go 23 (clusterPA (clusterOfCore q) 0) else .error (wWindow a)
  | 10 => if wfld a 25 35 = 0 then go 25 (diePA (dieOfCore q) 0) else .error (wWindow a)
  | 11 => if wfld a 29 31 = 0 then go 22 (spadPA (wfld a 22 7) 0) else .error (wWindow a)
  | _ => .error (wWindow a)

/-- The own-window address of a scratchpad offset (R55). -/
def ownAddr (o : Nat) : Word := BitVec.ofNat 64 (2 ^ 63 + o)

/-- The address that a locator names, and the locator of an address (R286). -/
def locAddr (l : BitVec 32) : Word := BitVec.ofNat 64 (fld l.toNat 28 4 * 2 ^ 60 + fld l.toNat 2 26 * 8)
def addrLoc (a : Word) : BitVec 32 := BitVec.ofNat 32 (wfld a 60 4 * 2 ^ 28 + wfld a 3 26 * 4)

/-- A non-zero locator is valid (R286). -/
def locValid (q : Nat) (l : BitVec 32) : Bool :=
  8 ≤ fld l.toNat 28 4 && fld l.toNat 28 4 ≤ 11 && fld l.toNat 0 2 = 0 &&
    (match storeWin q (locAddr l) 8 with | .ok _ => true | .error _ => false)

/-- The word a locator names, resolved through core q; none for 0 (R286). -/
def locPA (q : Nat) (l : BitVec 32) : Option Nat :=
  if l = 0 then none else
    match storeWin q (locAddr l) 8 with
    | .ok pa => some pa
    | .error _ => none

/-- Bytes of a page of a size code (R398). -/
def pageBytes (size : BitVec 2) : Nat := 2 ^ (12 + 9 * size.toNat)

/-- A translation cache entry maps an address of a PASID. -/
def TEntry.maps (e : TEntry) (pasid : BitVec 20) (va : Nat) : Bool := e.pasid = pasid && e.vpage = va / pageBytes e.size

/-- The answer at hand for an access to a 4 KiB page: gathered before, or in the core's translation cache. -/
def findPage (gathered : List PageRes) (tlb : List TEntry) (pasid : BitVec 20) (page : Nat) (write : Bool) : Option XRes :=
  match gathered.find? fun p => p.page = page && p.write = write with
  | some p => some p.res
  | none =>
    match tlb.find? fun e => e.maps pasid (page * 4096) && (if write then e.write else e.read) with
    | some e => some (.at (e.target + page * 4096 % pageBytes e.size) e.read e.write)
    | none => none

/-- The task that a context holds; 0 is no task's id. -/
def Ctx.uid (x : Ctx) : Nat := x.task.elim 0 (·.uid)

/-- The PASID of a context's task. -/
def Ctx.pasid (x : Ctx) : BitVec 20 :=
  match x.task with
  | some t => t.pasid
  | none => 0

/-- The answer at hand for a context's access. -/
def State.pageOf (s : State) (c page : Nat) (write : Bool) : Option XRes :=
  findPage (s.ctx c).pages (s.core (coreOf c)).tlb (s.ctx c).pasid page write

/-- Send a translation request through a die's ATS unit, or wait on one already sent; at most 256 are outstanding, and who finds no room
asks again (R398). -/
def State.askPage (s : State) (d : Nat) (pasid : BitVec 20) (page : Nat) (write : Bool) (ctxs fns : List Nat) : State :=
  let same (r : AtsReq) : Bool := r.pasid = pasid && r.page = page && r.write = write
  if (s.die d).ats.any same then
    s.modDie d fun x => { x with ats := updWhere same (fun r => { r with ctxs := (r.ctxs ++ ctxs).eraseDups, fns := (r.fns ++ fns).eraseDups }) x.ats }
  else if (s.die d).ats.length < 256 then
    { s.modDie d fun x => { x with ats := x.ats ++ [⟨pasid, page, write, ctxs, fns⟩] } with
      out := s.out ++ [.atsRequest d pasid page write] }
  else s

/-- What a syllable waits for is one of the block events of R33. -/
def Block.isEvent : Block → Bool
  | .recast => false
  | .stall => false
  | _ => true

/-- Change what the syllable of a slot at an entry waits for. -/
def Ctx.mark (x : Ctx) (e : Nat) (sl : Slot) (f : Option Block → Option Block) : Ctx :=
  { x with queue := updWhere (fun d => d.entry = e) (fun d =>
      { d with left := updWhere (fun q => q.slot = sl) (fun q => { q with blk := f q.blk }) d.left }) x.queue }

/-- The syllable of a slot at an entry has read its operands (R45). -/
def Ctx.keep (x : Ctx) (e : Nat) (sl : Slot) (ops : List Word) : Ctx :=
  { x with queue := updWhere (fun d => d.entry = e) (fun d =>
      { d with left := updWhere (fun q => q.slot = sl) (fun q => { q with ops := ops }) d.left }) x.queue }

/-- The syllable of a slot at an entry waits on a word, with the operands that it has read (R45). -/
def Ctx.await (x : Ctx) (e : Nat) (sl : Slot) (pa : Nat) (ops : List Word) : Ctx :=
  { x with queue := updWhere (fun d => d.entry = e) (fun d =>
      { d with left := updWhere (fun q => q.slot = sl) (fun q => { q with word := some pa, ops := ops }) d.left }) x.queue }

/-- A stall that is not a block event (R33): the syllable in issue stays if it is one of the context's, and other agents move. -/
def State.stallCtx (s : State) (c : Nat) : State :=
  { s.modCtx c fun x => if s.cur.ctx = c then x.mark s.cur.entry s.cur.slot fun b => some (b.getD .stall) else x with evTurn := true }

/-- The first access of a list for which a context has no answer at hand. -/
def State.missing (s : State) (c : Nat) (reqs : List (Nat × Bool)) : Option (Nat × Bool) :=
  reqs.find? fun r => (s.pageOf c r.1 r.2).isNone

/-- Go on once every page of a list of accesses is translated; until then ask, and stall (R86, R398). -/
def State.withPages (s : State) (c : Nat) (reqs : List (Nat × Bool)) (k : State → State) : State :=
  match s.missing c reqs with
  | some r => (s.askPage (dieOf c) (s.ctx c).pasid r.1 r.2 [c] []).stallCtx c
  | none => k s

/-- The 4 KiB pages that n bytes from a virtual address on touch. -/
def pagesOf (va n : Nat) : List Nat := if n = 0 then [] else (List.range ((va + n - 1) / 4096 - va / 4096 + 1)).map (va / 4096 + ·)

/-- The physical number of a translated byte. -/
def State.vaPA (s : State) (c va : Nat) (write : Bool) : Option Nat :=
  match s.pageOf c (va / 4096) write with
  | some (.at t _ _) => some (t + va % 4096)
  | _ => none

/-- The 16 bytes of a dirty log entry (R401). -/
def dlogEntry (e : TEntry) : List Byte :=
  leBytes 8 (e.vpage * pageBytes e.size + e.size.toNat) ++ leBytes 8 (e.pasid.toNat * 2 ^ 44)

/-- Log a page as dirty; a full ring drops the entry and sets OVF; without a log the bit is kept (R401). -/
def State.logEntry (s : State) (e : TEntry) : State :=
  match s.dlogs.find? fun d => d.1 = e.pasid.toNat with
  | none => { s with unlogged := s.unlogged ++ [e] }
  | some (_, d) =>
    let a := ioPA d.fn d.base
    let p := readNat s.mem a 4
    let c := readNat s.mem (a + 8) 4
    if (p + 2 ^ 32 - c) % 2 ^ 32 < d.entries then
      let m := writeBytes s.mem (a + 64 + 16 * (p % d.entries)) (dlogEntry e)
      { s with mem := writeNat m a 4 ((p + 1) % 2 ^ 32) }
    else
      { s with mem := writeNat s.mem (a + 16) 1 (leNat (readBytes s.mem (a + 16) 1) ||| 1) }

/-- Log entries in order. -/
def State.logEntries (s : State) (es : List TEntry) : State := es.foldl (fun s e => s.logEntry e) s

/-- Write the dirty bits of a PASID to its log, those kept from evicted entries first (R402, R403). -/
def State.harvestPasid (s : State) (pasid : BitVec 20) : State :=
  if s.dlogs.any (fun d => d.1 = pasid.toNat) then
    let kept := s.unlogged.filter fun e => e.pasid = pasid
    let s := { s with unlogged := s.unlogged.filter fun e => e.pasid ≠ pasid }
    let live := s.cores.flatMap fun q => q.2.tlb.filter fun e => e.pasid = pasid && e.dirty
    let s := s.logEntries (kept ++ live)
    { s with cores := s.cores.map fun q =>
        (q.1, { q.2 with tlb := updWhere (fun e => e.pasid = pasid) (fun e => { e with dirty := false }) q.2.tlb }) }
  else s

/-- Put an entry into a core's translation cache of 128 entries; the oldest leaves, and is logged when dirty (R398, R402; which
entry leaves is not stated, log 9). -/
def State.fillTlb (s : State) (q : Nat) (e : TEntry) : State :=
  let same (o : TEntry) : Bool := o.pasid = e.pasid && o.size = e.size && o.vpage = e.vpage
  let old := (s.core q).tlb.filter same
  let t : List TEntry := ((s.core q).tlb.filter fun o => !same o) ++ [{ e with dirty := old.any (·.dirty), read := e.read || old.any (·.read), write := e.write || old.any (·.write) }]
  if 128 < t.length then
    let s := s.modCore q fun x => { x with tlb := t.drop 1 }
    s.logEntries ((t.take 1).filter (·.dirty))
  else s.modCore q fun x => { x with tlb := t }

/-- Mark a page written through a core's translation cache; a page whose entry has left is logged at once (R398, R402). -/
def State.markDirty (s : State) (q : Nat) (pasid : BitVec 20) (page : Nat) : State :=
  if (s.core q).tlb.any fun e => e.maps pasid (page * 4096) then
    s.modCore q fun x => { x with tlb := updWhere (fun e => e.maps pasid (page * 4096)) (fun e => { e with dirty := true }) x.tlb }
  else s.logEntry ⟨pasid, 0, page, 0, true, true, true⟩

/-- Mark pages written. -/
def State.markDirtyAll (s : State) (q : Nat) (pasid : BitVec 20) (pages : List Nat) : State :=
  pages.foldl (fun s p => s.markDirty q pasid p) s

/-- Raise a page request with write access; identical requests share one, and at most 512 are outstanding (R400). -/
def State.askPri (s : State) (d : Nat) (pasid : BitVec 20) (page : Nat) : State :=
  if ((s.die d).pri.any fun r => r.pasid = pasid && r.page = page) || 512 ≤ (s.die d).pri.length then s
  else { s.modDie d fun x => { x with pri := x.pri ++ [⟨pasid, page⟩] } with out := s.out ++ [.pageRequest pasid page] }

/-- The buffered effects of every task: running, saved and ended. -/
def State.effectLists (s : State) : List (List Effect) :=
  (s.ctxs.filterMap fun x => x.2.task.map (·.effects)) ++ (s.saved.filterMap fun t => t.ctx.task.map (·.effects)) ++
    s.ended.map (·.task.effects)

/-- Change the buffered effects of every task. -/
def State.mapEffects (s : State) (f : Effect → Effect) : State :=
  let g (t : Task) : Task := { t with effects := t.effects.map f }
  { s with
    ctxs := s.ctxs.map fun x => (x.1, { x.2 with task := x.2.task.map g })
    saved := s.saved.map fun t => { t with ctx := { t.ctx with task := t.ctx.task.map g } }
    ended := s.ended.map fun e => { e with task := g e.task } }

/-- An operation of an id performs an effect that a commit has sent out (R320). -/
def Effect.isUnderway (id : Nat) : Effect → Bool
  | .underway i _ => i = id
  | _ => false
def State.commits (s : State) (id : Nat) : Bool := s.effectLists.any fun l => l.any (Effect.isUnderway id)

/-- An effect under way has met an error (R322). -/
def State.failUnderway (s : State) (id : Nat) (f : FaultInfo) : State :=
  s.mapEffects fun e => if e.isUnderway id then .underway id (some f) else e

/-- A commit error of a task, with its sub-cause and address (R322, R351). Its unit names only an MSEND or EOS. -/
def commitFault (sub : BitVec 8) (addr : Word) : FaultInfo := ⟨0x25, sub, 0, addr, 0, 0, 0, 0, 0, 0, true, true⟩

/-- A cache entry matches an invalidation (R399). -/
def TEntry.within (e : TEntry) (pasid : BitVec 20) (start len : Nat) : Bool :=
  e.pasid = pasid && e.vpage * pageBytes e.size < start + len && start < (e.vpage + 1) * pageBytes e.size

/-- The operation that parks bytes: its context, its task and PASID, the entry that bounds its fault's skid, if one does (R359), and its
id. -/
structure Parker where
  ctx   : Nat
  uid   : Nat
  pasid : BitVec 20
  entry : Option Nat
  op    : Nat
  deriving DecidableEq, Repr

/-- A move as the operation that parks its bytes. -/
def Move.parker (m : Move) : Parker := ⟨m.ctx, m.uid, m.pasid, some m.entry, m.id⟩

/-- Park bytes for a page that is not present, at most 64 bytes an entry, and raise its page request (R276). What a commit parks is marked
so (R322). -/
def State.park (s : State) (o : Parker) (page : Nat) (kind : ParkKind) (bytes : List (Nat × Byte)) : State :=
  let es : List Parked := (chunks 64 bytes.length bytes).map fun b => ⟨o.pasid, page, o.ctx, o.uid, s.commits o.op, b, kind, false, o.entry, o.op⟩
  (s.modCore (coreOf o.ctx) fun q => { q with replay := q.replay ++ es }).askPri (dieOf o.ctx) o.pasid page

/-- Park one Fold update by an n-byte input for a page that is not present (R276); told says that its flags have been set. -/
def State.parkFold (s : State) (o : Parker) (va n : Nat) (x : Word) (told : Bool) : State :=
  s.park o (va / 4096) (.fold n x told) [(va, 0)]

/-- Entries of a store replay queue (R276). -/
def replayEntries : Nat := 64

/-- A byte or word of a page parks when the page is not present or has parked entries (R276). -/
def State.parks (s : State) (q : Nat) (pasid : BitVec 20) : PByte → Option Nat
  | .virt va none => some va
  | .virt va (some _) => if (s.core q).replay.any fun p => p.pasid = pasid && p.page = va / 4096 then some va else none
  | _ => none

/-- Entries that bytes take in the replay queue: one per 64 bytes of a page that park (R276). -/
def State.parkCount (s : State) (q : Nat) (pasid : BitVec 20) (l : List PByte) : Nat :=
  let vas := l.filterMap (s.parks q pasid)
  ((vas.map (· / 4096)).eraseDups).foldl (fun n p => n + ((vas.filter fun va => va / 4096 = p).length + 63) / 64) 0

end Sys2Proof.Machine
end

