-- ==== Sys2Proof/Machine/Endings.lean ====
section
/-! DEFINITION. Objects by slot, the end of tasks: ownership passing back, words and objects becoming BROKEN, join words,
kills and freed contexts (R193, R273, R297, R298, R358). -/

namespace Sys2Proof.Machine

/-- An object table entry that is not FREE (R330). -/
def State.obj (s : State) (d slot : Nat) : Option Obj := ((s.die d).objs.find? fun e => e.1 = slot).map (·.2)

/-- Change an object table entry. -/
def State.modObj (s : State) (d slot : Nat) (f : Obj → Obj) : State :=
  s.modDie d fun x => { x with objs := x.objs.map fun e => if e.1 = slot then (e.1, f e.2) else e }

/-- Change every object of both dies. -/
def State.mapObjs (s : State) (f : Obj → Obj) : State :=
  { s with dies := s.dies.map fun d => (d.1, { d.2 with objs := d.2.objs.map fun e => (e.1, f e.2) }) }

/-- What the device knows of a task; an unknown task has ended. -/
def State.taskInfo (s : State) (uid : Nat) : TaskInfo := Sparse.get ⟨none, true, 0⟩ s.tasks uid

/-- The nearest task of a chain of parents that has not ended, and whether there is one; else the root (R297). Depth is at
most 31 (R293), which bounds the fuel. -/
def State.heir (s : State) : Nat → Nat → Nat × Bool
  | 0, t => (t, false)
  | n + 1, t =>
    if (s.taskInfo t).ended then
      match (s.taskInfo t).parent with
      | none => (t, false)
      | some p => s.heir n p
    else (t, true)

/-- A segment after its owner has ended (R297). -/
def State.passSeg (s : State) (uid : Nat) (g : Seg) : Seg :=
  if g.owner = some uid then
    match g.retOwner with
    | none => g
    | some r =>
      let h := s.heir 64 r
      { g with owner := some h.1, retOwner := if h.2 then (s.taskInfo h.1).parent else none }
  else g

/-- PassBack of every Own segment of a task (R297). -/
def State.passBack (s : State) (uid : Nat) : State :=
  s.mapObjs fun o => { o with segs := o.segs.map (s.passSeg uid) }

/-- A task has ended. -/
def State.markEnded (s : State) (uid : Nat) : State :=
  { s with tasks := Sparse.put s.tasks uid { s.taskInfo uid with ended := true } }

/-- Drop bytes that a move or another party has written from the records of earlier scratchpad writes (R213). -/
def StoreRec.without (r : StoreRec) (as : List Nat) : StoreRec :=
  { r with bytes := r.bytes.filter fun e => !as.contains e.1, old := r.old.filter fun e => !as.contains e.1 }

/-- After a move of a context at an entry has written bytes: writes that have landed, and older ones of the same context, no longer
show at them (R213). -/
def State.overwrite (s : State) (c entry : Nat) (as : List Nat) : State :=
  if as.any inStore then
    { s with ctxs := s.ctxs.map fun x =>
        if x.2.stores.isEmpty then x else
          (x.1, { x.2 with stores := x.2.stores.map fun r => if r.landed || (x.1 = c && r.entry < entry) then r.without as else r }) }
  else s

/-- Change what the syllables and copies that wait on a word wait for. -/
def State.tellWaiters (s : State) (pa : Nat) (f : Block → Block) : State :=
  let q (k : Queued) : Queued := if k.word = some pa then { k with blk := k.blk.map f } else k
  let w (k : Nat × FnRegs) : Nat × FnRegs :=
    if k.2.flag.any fun e => e.1 = pa then (k.1, { k.2 with flag := k.2.flag.map fun e => (e.1, f e.2) }) else k
  { s with
    fns := s.fns.map w
    ctxs := s.ctxs.map fun x =>
      if x.2.queue.isEmpty then x else (x.1, { x.2 with queue := x.2.queue.map fun d => { d with left := d.left.map q } }) }

/-- A word becomes BROKEN through its tag, and every wait on it ends as on a BROKEN word, whatever becomes of the tag (R273-R275). -/
def State.breakWord (s : State) (pa : Nat) : State := { s with tags := setTag s.tags pa tagBroken }.tellWaiters pa fun _ => .broken

/-- The handle fields of a word (R58, R329): die, slot in the die's table, generation. -/
def handleDie (h : Word) : Nat := wfld h 39 1
def handleSlot (h : Word) : Nat := wfld h 16 23
def handleGen (h : Word) : BitVec 20 := h.extractLsb' 40 20

/-- A handle names a LIVE object of its generation (R332). -/
def State.handleLive (s : State) (h : Word) : Bool :=
  match s.obj (handleDie h) (handleSlot h) with
  | some o => o.live && o.gen = handleGen h
  | none => false

/-- A produce entry becomes BROKEN (R273, R290). -/
def State.breakProduce (s : State) (q : Nat) (a : Word) : State :=
  if wfld a 60 4 = 4 then
    if s.handleLive a then s.modObj (handleDie a) (handleSlot a) fun o => { o with brk := true } else s
  else
    match storeWin q a 8 with
    | .ok pa => s.breakWord pa
    | .error _ => s

/-- The phase of a barrier's word A (R262). -/
def barPhase (w : Nat) : Nat := fld w 32 29

/-- A barrier on which a task stands registered: its phase has not completed (R273). -/
def State.breakBarrier (s : State) (r : Nat × Nat) : State :=
  if barPhase (readNat s.mem r.1 8) = r.2 && tagAt s.tags r.1 = tagFull then s.breakWord r.1 else s

/-- Everything that a kill of a task makes BROKEN, resolved through a core (R273). -/
def State.breakTask (s : State) (t : Task) (q : Nat) : State :=
  let s := t.produce.foldl (fun s a => s.breakProduce q a) s
  let s := match locPA q t.trec.join with
    | some pa => s.breakWord pa
    | none => s
  t.regBars.foldl (fun s r => s.breakBarrier r) s

/-- Subtract 1 from a join word that is FULL and not 0 (R297); BROKEN or 0: no change (R274). -/
def State.decrementJoin (s : State) (q : Nat) (l : BitVec 32) : State :=
  match locPA q l with
  | none => s
  | some pa =>
    let n := readNat s.mem pa 8
    if tagAt s.tags pa = tagFull && 0 < n then { s with mem := writeNat s.mem pa 8 (n - 1) }.overwrite 0 0 (span pa 8) else s

/-- Note a kill in the task's launch (R389, R395). -/
def State.noteKill (s : State) (launch : Nat) (k : Kill) : State :=
  { s with launches := updWhere (fun l => l.id = launch) (fun l => { l with kills := l.kills ++ [k] }) s.launches }

/-- Count an access admitted by a handle check, or its end (R332). -/
def State.countIn (s : State) (e : Nat × Nat) : State := s.modObj e.1 e.2 fun o => { o with inflight := o.inflight + 1 }
def State.discharge (s : State) (e : Nat × Nat) : State := s.modObj e.1 e.2 fun o => { o with inflight := o.inflight - 1 }

/-- The accesses that a buffered effect counts in INFLIGHT. -/
def Effect.counts : Effect → List (Nat × Nat)
  | .move m => m.objs
  | .msend m => if m.counted then m.obj.toList else []
  | .eos m => if m.counted then m.obj.toList else []
  | _ => []

/-- Discard buffered effects (R323, R358). -/
def State.dropEffects (s : State) (l : List Effect) : State := (l.flatMap Effect.counts).foldl State.discharge s

/-- What every kill does for a task: it has ended, its segments pass back, R273 applies, its buffered effects are discarded, its
launch notes it with the save-area base that holds its record, if any, and a record still to be written there (R358). -/
def State.killTask (s : State) (t : Task) (q : Nat) (base : Option Word) (record : List Byte) : State :=
  ((((s.markEnded t.uid).passBack t.uid).breakTask t q).dropEffects t.effects).noteKill t.launch ⟨t.trec.seq.toNat, base, record⟩

/-- Some asynchronous operation of a context's task is outstanding. -/
def State.outstanding (s : State) (c uid : Nat) : Bool :=
  s.moves.any (fun m => m.ctx = c && m.uid = uid) || s.msends.any (fun m => m.ctx = c && m.uid = uid) ||
    s.eoss.any (fun m => m.ctx = c && m.uid = uid)

/-- A context without a task: its CSRs keep their values until the next task start sets them (R49); a pre-emption request ends
with its task, and so do the delay state and the supervisor mode of SSTAT (log 15). -/
def Ctx.freed (x : Ctx) : Ctx :=
  { Ctx.idle with csr := (x.csr.filter fun e => e.1 ≠ csrPREEMPT && e.1 ≠ csrSSTAT).map fun e => (e.1, e.2.settle) }

/-- Dispatch leaves the running context of a core for the next ready one (R33). -/
def State.leave (s : State) (c : Nat) : State :=
  s.modCore (coreOf c) fun q => if q.running = c % 4 then { q with seek := true } else q

/-- Free a context; its core may probe for work again (R300). -/
def State.freeCtx (s : State) (c : Nat) : State :=
  { ((s.modCtx c Ctx.freed).leave c).modCore (coreOf c) fun q => { q with stolen := false } with evTurn := true }

/-- A RESOLVE is committing a task: it does nothing else until the RESOLVE completes (R319, R320). -/
def State.committing (s : State) (uid : Nat) : Bool := s.resolves.any fun r => r.tasks.contains uid

/-- A RESOLVE of a die has not completed; other steps on its conditions wait (R319). -/
def State.dieResolving (s : State) (d : Nat) : Bool := s.resolves.any fun r => r.die = d

/-- Free a context whose task was killed or pruned once its operations are done (R323, R358). -/
def State.reap (s : State) (c : Nat) : State :=
  match (s.ctx c).task with
  | some t => if t.dead && !s.outstanding c t.uid then s.freeCtx c else s
  | none => s

/-- A RECAST that its context no longer waits for leaves its range open under its old role (R199). -/
def State.dropRecast (s : State) (c : Nat) : State :=
  let s := (s.recasts.filter fun r => r.ctx = c).foldl
    (fun s r =>
      let s := s.modObj r.die r.slot fun o => { o with closed := o.closed.filter fun k => k.2.2 ≠ c }
      if r.counted then s.discharge (r.die, r.slot) else s) s
  { s with recasts := s.recasts.filter fun r => r.ctx ≠ c }

/-- Stop a context for good: pending results are discarded and buffered effects with them; it is freed when its operations are
done (R358). -/
def State.stopCtx (s : State) (c : Nat) : State :=
  ((s.dropRecast c).modCtx c fun x =>
    { x with
      task := x.task.map fun t => { t with dead := true, effects := [], fault := none }
      queue := []
      late := []
      stores := []
      pages := []
      redirects := []
      nulls := []
      loop := none
      lend := [LendSt.start, LendSt.start, LendSt.start, LendSt.start]
      saved := none
      restore := none
      s := x.s.map fun e => (e.1, { e.2 with pend := [] })
      p := x.p.map fun e => (e.1, { e.2 with pend := [] })
      v := x.v.map fun e => (e.1, { e.2 with pend := [] })
      csr := x.csr.map fun e => (e.1, { e.2 with pend := [] }) }).reap c

/-- Kill the task of a context (R358). -/
def State.killCtx (s : State) (c : Nat) (rec : Option Word) : State :=
  match (s.ctx c).task with
  | some t => if t.dead then s else (s.killTask t (coreOf c) rec []).stopCtx c
  | none => s

end Sys2Proof.Machine
end

