-- ==== Sys2Proof/Machine/Ops.lean ====
section
/-! DEFINITION. The shared operations: entries and boundaries, guarded issue and retirement, raising a fault, the save of a
context, taking a trap and returning from it, pre-emption saves (R33-R38, R146, R153-R157, R352-R372). -/

namespace Sys2Proof.Machine

/-- Passes of a loop (R153); a LOOPP that drains counts only the iterations already started (R157). -/
def LoopSt.passes (l : LoopSt) : Nat :=
  let n := if l.draining then l.limit else l.count
  if n = 0 then 0 else n + l.stages - 1

/-- The iteration that stage st of the current pass works on, if any (R153, R157). -/
def LoopSt.iter (l : LoopSt) (st : Nat) : Option Nat :=
  let n := if l.draining then l.limit else l.count
  if st < l.stages && st ≤ l.pass && l.pass - st < n then some (l.pass - st) else none

/-- The loop that goes on after a drain: the iterations not started (R157). -/
def LoopSt.rest (l : LoopSt) : LoopSt :=
  { l with first := l.first + l.limit, count := l.count - l.limit, pass := 0, pos := 0, started := false, draining := false, limit := 0 }

/-- Entries that a drain adds and that are not charged (R305). -/
def LoopSt.drainCost (l : LoopSt) : Nat := if l.limit = 0 then 0 else (l.stages - 1) * l.len

/-- After a bundle of the body: the next bundle, or the boundary of the next pass. -/
def LoopSt.advance (l : LoopSt) : LoopSt :=
  if !l.started then l
  else if l.pos + 1 < l.len then { l with pos := l.pos + 1 }
  else { l with pos := 0, pass := l.pass + 1, started := false }

/-- A pass boundary at which more passes follow. -/
def LoopSt.moreAt (l : LoopSt) : Bool := !l.started && l.pass < l.passes

/-- The passes of a drain add to the loop, since iterations are left for after it (R157, R305). -/
def LoopSt.adds (l : LoopSt) : Bool := l.draining && l.limit < l.count && l.limit ≠ 0

/-- The bundles that the passes of a drain have dispatched so far: entries that are not charged (R305). -/
def LoopSt.credit (l : LoopSt) : Nat := if l.adds && l.limit ≤ l.pass then (l.pass - l.limit) * l.len + l.pos else 0

/-- A loop whose passes are exhausted (R153). -/
def LoopSt.spent (l : LoopSt) : Bool := !l.started && l.passes ≤ l.pass

/-- A LOOPP that has drained and has iterations left (R157). -/
def LoopSt.drained (l : LoopSt) : Bool := l.draining && l.spent && l.limit < l.count

/-- Set the stage predicates p8 to p11 for every slot at once (R153). -/
def Ctx.setStages (x : Ctx) (g : Nat → Bool) : Ctx :=
  { x with p := [0, 1, 2, 3].foldl (fun p st => Sparse.put p (8 + st)
      ((Sparse.get (Cell.of 0) p (8 + st)).poke (BitVec.allOnes 64) (allIf 64 (g st)))) x.p }

/-- Every loop of a context ends (R155); after LOOPP the stage predicates become zero. -/
def Ctx.endLoops (x : Ctx) : Ctx :=
  match x.loop with
  | none => x
  | some l => { (if l.kind = .loopp then x.setStages fun _ => false else x) with loop := none }

/-- A redirect due at the entry that dispatch is about to take (R146). -/
def Ctx.redirectDue (x : Ctx) : Option Word := (x.redirects.find? fun r => r.1 = x.entry).map (·.2)

/-- Apply a redirect that is due (R146). -/
def Ctx.applyRedirect (x : Ctx) : Ctx :=
  match x.redirectDue with
  | none => x
  | some t => { x.endLoops with pc := t, redirects := x.redirects.filter fun r => r.1 ≠ x.entry }

/-- After the dispatch of a bundle of n syllables: the entry counts, the address moves past the bundle or back to the body of a loop
(R35, R146, R153). -/
def Ctx.advance (x : Ctx) (n : Nat) : Ctx :=
  let l := x.loop.map LoopSt.advance
  let pc := match l with
    | some l => if l.moreAt && l.pos = 0 && x.loop ≠ some l then l.body else x.pc + BitVec.ofNat 64 (4 * n)
    | none => x.pc + BitVec.ofNat 64 (4 * n)
  { x with
    entry := x.entry + 1
    pc := pc
    loop := l
    pages := []
    nulls := x.nulls.filter fun e => x.entry < e }

/-- A bundle without the syllable of a slot. -/
def Disp.without (d : Disp) (sl : Slot) : Disp := { d with left := d.left.filter fun q => q.slot ≠ sl }

/-- A context whose slot has issued its syllable of an entry: the slot's frontier passes the entry (R35, R353). -/
def Ctx.issued (x : Ctx) (e : Nat) (sl : Slot) : Ctx :=
  { x with front := Sparse.put x.front sl.num (e + 1), pages := [], queue := updWhere (fun d => d.entry = e) (·.without sl) x.queue }

/-- A fault of the context's task waits to be delivered. -/
def Ctx.faulted (x : Ctx) : Bool := (x.task.bind (·.fault)).isSome

/-- The oldest bundles whose syllables have all issued leave the slot queues, unless a save may go back to them (R353). -/
def Ctx.prune (x : Ctx) : Ctx := if x.faulted then x else { x with queue := x.queue.dropWhile fun d => d.left.isEmpty }

/-- The syllable in issue has issued (R35, R353); after the last of a bundle, events go first (log 6). -/
def State.retire (s : State) : State :=
  { s.modCx (fun x => (x.issued s.cur.entry s.cur.slot).prune) with evTurn := s.evTurn || (s.disp.without s.cur.slot).left.isEmpty }

/-- The syllable in issue waits. -/
def State.hold (s : State) (b : Block) : State :=
  { s.modCx (fun x => x.mark s.cur.entry s.cur.slot fun _ => some b) with evTurn := true }

/-- A block event: the pending results of the slot land, the syllable in issue waits, and dispatch moves to the next ready context
(R33, R45). -/
def State.block (s : State) (b : Block) : State := (s.landSlot.hold b).leave s.cur.ctx

/-- A block event of a syllable that keeps the operands that it has read (R45). -/
def State.blockWith (s : State) (b : Block) (ops : List Word) : State := (s.block b).modCx fun x => x.keep s.cur.entry s.cur.slot ops

/-- A block event of a wait on a word of the scratchpads and stores. -/
def State.blockOn (s : State) (pa : Nat) (b : Block) (ops : List Word) : State :=
  (s.block b).modCx fun x => x.await s.cur.entry s.cur.slot pa ops

/-- A stall of the syllable in issue (R33). -/
def State.stall (s : State) : State := s.stallCtx s.cur.ctx

/-- TCAUSE of a fault (R362). -/
def FaultInfo.tcause (f : FaultInfo) : Word :=
  f.imm ++ (f.sub ++ ((0 : BitVec 30) ++ (BitVec.ofBool f.fatal ++ (BitVec.ofBool f.imprec ++ f.cls))))

/-- The bytes of a list of words. -/
def wordsBytes (ws : List Word) : List Byte := ws.flatMap fun w => leBytes 8 w.toNat

/-- The frontier of a slot: the first entry that it has not issued (R353). -/
def Ctx.frontier (x : Ctx) (n : Nat) : Nat := max (Sparse.get 0 x.front n) x.entry

/-- Redirects with entries still to go, the nearest first (R363). -/
def Ctx.delayed (x : Ctx) : List (Nat × Word) := sortBy (·.1) (x.redirects.filter fun r => x.entry < r.1)

/-- SSTAT.DS with MODE clear and CHKV kept (R363). -/
def Ctx.delayState (x : Ctx) : Word :=
  let d := x.delayed
  let at' (i : Nat) (hi : Nat) : Nat :=
    match d[i]? with
    | some r => 2 ^ hi + (r.1 - x.entry) % 4 * 2 ^ (hi - 2)
    | none => 0
  BitVec.ofNat 64 (at' 0 31 + at' 1 28 + (if x.nulls.contains (x.entry + 1) then 2 ^ 25 else 0) +
    (if x.nulls.contains x.entry then 2 ^ 24 else 0) + (if x.chkv then 2 else 0))

/-- The trap record (R365). -/
def trapRecord (x : Ctx) (f : FaultInfo) : List Byte :=
  let fr (a b : Nat) : Word := BitVec.ofNat 64 (x.frontier a % 2 ^ 32 + x.frontier b % 2 ^ 32 * 2 ^ 32)
  let tgt (i : Nat) : Word := match x.delayed[i]? with | some r => r.2 | none => 0
  wordsBytes [f.tcause, f.faddr,
    BitVec.ofNat 64 (f.op.toNat * 2 ^ 48 + f.slot * 2 ^ 40 + f.pos * 2 ^ 32 + f.fent % 2 ^ 32),
    BitVec.ofNat 64 (x.entry % 2 ^ 32), fr 0 1, fr 2 3, fr 4 5, fr 6 7, f.det0, f.det1, tgt 0, tgt 1] ++
    leBytes 160 0

/-- The entries of a context's task that pre-emption has added (R305). A drain that a redirect ends early loses its credit with its loop
(DESIGN CHOICE, log 103). -/
def Ctx.added (x : Ctx) : Nat := x.task.elim 0 (·.extra) + x.loop.elim 0 LoopSt.credit

/-- The charge against a task's budget (R305). -/
def Ctx.charge (x : Ctx) : Nat := x.entry - 1 - x.added

/-- A context with every register result landed (R355). TRPOPs stay, for the in-flight record, and so do the statuses of moves
that have not completed. -/
def Ctx.settleRegs (x : Ctx) : Ctx :=
  let stay (c : Cell 2048) : Cell 2048 := ⟨({ c with pend := c.pend.filter fun k => !k.exact } : Cell 2048).settle.base, [], c.pend.filter fun k => k.exact⟩
  let status (c : Cell 64) : Cell 64 := ⟨c.settle.base, [], c.pend.filter fun k => k.slot = .x && k.mask = 0⟩
  { x with
    s := x.s.map fun e => (e.1, e.2.settle)
    p := x.p.map fun e => (e.1, status e.2)
    v := x.v.map fun e => (e.1, stay e.2)
    shapeA := x.shapeA.map fun e => (e.1, e.2.settle)
    shapeS := x.shapeS.map fun e => (e.1, e.2.settle)
    csr := x.csr.map fun e => (e.1, e.2.settle) }

/-- The code of a number format (R77) and the format of a code. -/
def MFmt.code : MFmt → Nat
  | .fp32 => 0 | .bf16 => 1 | .fp16 => 2 | .e4m3 => 3 | .e5m2 => 4 | .e2m1 => 5 | .int8 => 6 | .d8 => 7
def mfmtOf (c : BitVec 3) : MFmt :=
  match c.toNat with
  | 0 => .fp32 | 1 => .bf16 | 2 => .fp16 | 3 => .e4m3 | 4 => .e5m2 | 5 => .e2m1 | 6 => .int8 | _ => .d8

/-- Codes of the fields to which R368 gives no layout (DESIGN CHOICE, log 7): 0 for what is absent. -/
def optCode (o : Option Nat) : Nat := o.elim 0 (· + 1)
def engCode : Option Eng → Nat
  | none => 0
  | some .ma => 1
  | some .mb => 2
def LoopKind.code : LoopKind → Nat
  | .loop => 1
  | .loopn => 2
  | .loopp => 3

/-- The loop state in the row at 0xC00 (R156, R368; log 7): 96 bytes. -/
def loopRow : Option LoopSt → List Byte
  | none => leBytes 96 0
  | some l =>
    leBytes 1 l.kind.code ++ leBytes 1 l.stages ++ leBytes 1 l.len ++
      leBytes 1 ((if l.started then 1 else 0) + if l.draining then 2 else 0) ++ leBytes 4 l.pos ++ leBytes 8 l.body.toNat ++
      leBytes 16 l.count ++ leBytes 16 l.pass ++ leBytes 16 l.first ++ leBytes 16 l.limit ++
      ((List.range 6).flatMap fun i => leBytes 2 (l.bounds.getD i 0)) ++ leBytes 4 0

/-- The row at 0xC00 (R368; log 7): loop state, lend state, arrival record, WAITB's P0, CHKEQ state and in-flight count. -/
def contextRow (x : Ctx) (count : Nat) : List Byte :=
  loopRow x.loop ++
    ((List.range 4).flatMap fun i =>
      let l := x.lend.getD i LendSt.start
      leBytes 1 (engCode l.now) ++ leBytes 1 (engCode l.before) ++ leBytes 6 0 ++ leBytes 8 l.since) ++
    leBytes 8 (optCode (x.arrival.map (·.2))) ++ leBytes 24 (x.arrival.elim 0 (·.1)) ++ leBytes 16 (optCode x.waitP0) ++
    wordsBytes [x.chka, x.chkb, x.chkpc, if x.chkv then 1 else 0] ++ leBytes 16 count

/-- The row at 0xD00 (R368; log 7): the format pairs of MA and MB, the transpose unit's R, size, rc and cc. -/
def engineRow (x : Ctx) : List Byte :=
  let fmt (f : FmtSt) : List Byte :=
    leBytes 1 f.now.1.code ++ leBytes 1 f.now.2.code ++ leBytes 1 f.before.1.code ++ leBytes 5 f.before.2.code ++ leBytes 8 f.since ++
      leBytes 8 (optCode f.lastPush) ++ leBytes 8 (optCode f.owed)
  fmt x.fmtA ++ fmt x.fmtB ++ leBytes 8 x.tu.rows ++ leBytes 8 x.tu.size.toNat ++ leBytes 8 x.tu.rc ++ leBytes 8 x.tu.cc ++ leBytes 160 0

/-- The always-written rows up to the vector registers, of a context whose results have landed (R355, R368). The fields of the row at 0x280
stand in the order of R368, one 8-byte word each (DESIGN CHOICE, log 7). -/
def saveRows (x : Ctx) (t : TaskRec) (count : Nat) : List (Nat × List Byte) :=
  let csr (n : Nat) : Word := (x.csrCell n).base
  let shape (act : Bool) : List Byte := (List.range 16).flatMap fun r =>
    leBytes 64 (if act then (x.shapeActive r) else (x.shapeShadow r)).base.toNat
  [(0x100, (List.range 32).flatMap fun r => leBytes 8 (x.sreg r).base.toNat),
   (0x200, ((List.range 12).flatMap fun r => leBytes 8 (if r = 0 then 2 ^ 64 - 1 else (x.preg r).base.toNat)) ++ leBytes 32 0),
   (0x280, wordsBytes [csr csrCTL, csr csrFST, csr csrATTN, t.lk.setWidth 64, t.seq.setWidth 64,
      BitVec.ofNat 64 (leNat t.conds), BitVec.ofNat 64 t.depth, BitVec.ofNat 64 x.charge] ++ leBytes 64 0),
   (0x300, (List.range 32).flatMap fun i => leBytes 8 (csr (16 + i)).toNat),
   (0x400, shape true ++ shape false),
   (0xC00, contextRow x count),
   (0x1000, (List.range 32).flatMap fun r => leBytes 256 (x.vreg r).base.toNat)]

/-- The KIND code of an in-flight scratchpad write (R369). -/
def StoreKind.code : StoreKind → Nat
  | .scalar => 0
  | .vst => 1
  | .vstx => 2
  | .mdrain _ => 3

/-- An in-flight record entry of 576 bytes (R369). -/
def inflightEntry (kind slot reg land : Nat) (addr mask aux : Word) (data offs : VReg) : List Byte :=
  wordsBytes [BitVec.ofNat 64 (kind * 2 ^ 60 + slot * 2 ^ 56 + reg * 2 ^ 48 + land % 2 ^ 32), addr, mask, aux, 0, 0, 0, 0] ++
    leBytes 256 data.toNat ++ leBytes 256 offs.toNat

/-- The writes that a save records: scratchpad writes not landed, pending TRPOPs by register, and SLD writes (R355). -/
def Ctx.inflightStores (x : Ctx) : List StoreRec := x.stores.filter fun r => !r.landed
def Ctx.inflightPops (x : Ctx) : List (Nat × Write 2048) :=
  x.v.flatMap fun e => (e.2.pend.filter fun k => k.exact).map fun k => (e.1, k)

/-- The in-flight record, entry by entry (R355, R369); AUX of an SLD holds the engine from bit 32 on and the byte count below (DESIGN
CHOICE, log 7). -/
def Ctx.inflightRecord (x : Ctx) : List (List Byte) :=
  let drains := x.inflightStores.filter fun r => r.kind.code = 3
  let image (r : StoreRec) : Nat := (drains.findIdx? fun d => d = r).getD 0
  let sld (e : Nat) (k : Write 4096) : List Byte :=
    inflightEntry 5 k.slot.num 0 k.land 0 0 (BitVec.ofNat 64 (e * 2 ^ 32 + (List.range 512).countP fun i => k.mask.getLsbD (8 * i)))
      (k.val.setWidth 2048) (k.val.extractLsb' 2048 2048)
  (x.inflightStores.map fun r =>
    inflightEntry r.kind.code r.slot.num 0 r.land r.base r.mask (BitVec.ofNat 64 (if r.kind.code = 3 then image r else r.aux))
      r.data r.offs) ++
    (x.inflightPops.map fun p => inflightEntry 4 p.2.slot.num p.1 p.2.land 0 0 0 p.2.val 0) ++
    x.scaleA.pend.map (sld 0) ++ x.scaleB.pend.map (sld 1)

/-- The drain images: the bytes each pending MDRAIN will write (R368, R370). -/
def Ctx.drainImages (x : Ctx) : List (List Byte) :=
  (x.inflightStores.filter fun r => r.kind.code = 3).map fun r => r.bytes.map (·.2)

/-- Every row that a save writes in place of a trap or before a pre-emption's own rows, by offset (R368). -/
def saveImage (x : Ctx) (t : TaskRec) (f : FaultInfo) : List (Nat × List Byte) :=
  let l := x.inflightRecord
  (0, trapRecord x f) :: saveRows x.settleRegs t l.length ++
    l.mapIdx (fun i b => (0x8000 + 576 * i, b)) ++ x.drainImages.mapIdx (fun i b => (0x11000 + 16384 * i, b))

/-- The offsets and sizes of those rows (R368). -/
def saveExtent (x : Ctx) : List (Nat × Nat) :=
  [(0, 0x680), (0xC00, 0x100), (0x1000, 0x2000), (0x8000, 576 * x.inflightRecord.length), (0x11000, 16384 * x.drainImages.length)]

/-- The save area of a context (R361). -/
def Ctx.trec (x : Ctx) : Word := (x.csrCell csrTREC).settled

/-- The pages of a save area that rows of given offsets and sizes touch. -/
def areaPages (base : Word) (rows : List (Nat × Nat)) : List Nat := (rows.flatMap fun r => pagesOf (base.toNat + r.1) r.2).eraseDups

/-- Write bytes at a context's virtual address, page by page; untranslated pages take nothing. -/
def State.writeVa (c : Nat) : Nat → State → Nat → List Byte → State
  | 0, s, _, _ => s
  | n + 1, s, va, bs =>
    if bs.isEmpty then s else
      let k := 4096 - va % 4096
      let s := match s.vaPA c va true with
        | some pa => { s with mem := writeBytes s.mem pa (bs.take k) }
        | none => s
      State.writeVa c n s (va + k) (bs.drop k)

/-- Read bytes at a context's virtual address. -/
def State.readVa (s : State) (c va n : Nat) (write : Bool) : List Byte :=
  (span va n).map fun a => match s.vaPA c a write with
    | some pa => byteAt s.mem pa
    | none => 0

/-- Write rows of an image into a save area. -/
def State.writeImage (s : State) (c : Nat) (base : Word) (rows : List (Nat × List Byte)) : State :=
  let s := rows.foldl (fun s r => State.writeVa c (r.2.length + 1) s (base.toNat + r.1) r.2) s
  s.markDirtyAll (coreOf c) (s.ctx c).pasid (areaPages base (rows.map fun r => (r.1, r.2.length)))

/-- The accesses to a save area are all granted, in window 0x0. -/
def State.saveOk (s : State) (c : Nat) (base : Word) (pages : List Nat) : Bool :=
  wfld base 57 7 = 0 && pages.all fun p => match s.pageOf c p true with
    | some (.at _ _ _) => true
    | _ => false

/-- Go on once a save area's pages are translated; a save area that cannot be written kills the task (log 10). -/
def State.withSave (s : State) (c : Nat) (base : Word) (pages : List Nat) (k : State → State) : State :=
  if wfld base 57 7 ≠ 0 then s.killCtx c none
  else s.withPages c (pages.map fun p => (p, true)) fun s => if s.saveOk c base pages then k s else s.killCtx c none

/-- Bytes of a move's end in scratchpads and stores. -/
def endBytes (l : List PByte) : List Nat := l.filterMap fun b => match b with
  | .at pa => some pa
  | _ => none

/-- A move of a context, younger than a record, touches a byte that the record writes. -/
def Move.overlaps (m : Move) (r : StoreRec) : Bool :=
  r.entry < m.entry && ((endBytes m.src).any (fun a => (r.newAt a).isSome) || (endBytes m.dst).any (fun a => (r.newAt a).isSome))

/-- The entry of the TRAP or BRK that raised a fault: the syllable counts as issued (R160). -/
def FaultInfo.trapEntry (f : FaultInfo) : Option Nat := if f.cls = 0x0E || f.cls = 0x0F then some f.fent else none

/-- The stop entry of a save for a fault (R353): its own for a precise one; an imprecise one stops every slot where it stands (R359). -/
def Ctx.stopEntry (x : Ctx) (f : FaultInfo) : Nat := if f.imprec then x.entry else f.fent

/-- The frontier of a slot at a save with stop entry t (R353): the entry of its first syllable that has not issued; for slot K the one
after a TRAP or BRK that is taken. A slot that holds only bubbles has issued any number of them, at least those below t (log 17); f is a
number of the free stream. -/
def Ctx.stopFront (x : Ctx) (t f : Nat) (trap : Option Nat) (sl : Slot) : Nat :=
  match (if sl = .k then trap else none), x.nextOf sl with
  | some k, _ => k + 1
  | none, some d => d.entry
  | none, none =>
    let lo := max (Sparse.get 0 x.front sl.num) (min t x.entry)
    if lo < x.entry then lo + (Config.freeBits 64 (f + sl.num)).toNat % (x.entry - lo + 1) else lo

/-- The eight slots. -/
def allSlots : List Slot := [.s0, .s1, .v, .ma, .mb, .t, .x, .k]

/-- The bundles dispatched at entry n or above are discarded; dispatch stands before entry n again (R353). -/
def Ctx.rollTo (x : Ctx) (n : Nat) : Ctx :=
  match x.queue.find? fun d => d.entry = n with
  | some d =>
    { x with entry := n, pc := d.pc, redirects := d.redirects, nulls := d.nulls, loop := d.loop, syncs := x.syncs.filter (· < n), queue := [] }
  | none => { x.applyRedirect with queue := [] }

/-- The context at a save with stop entry t: the frontiers stand, and the resume entry is the least of them (R353, R354). -/
def Ctx.stop (x : Ctx) (t f : Nat) (trap : Option Nat) : Ctx :=
  let fr := allSlots.map fun sl => (sl.num, x.stopFront t f trap sl)
  let y := x.rollTo (fr.foldl (fun n e => min n e.2) x.entry)
  { y with front := fr }

/-- Before a save with stop entry t: the frontiers and the boundary before the resume entry are settled (R353, R354), and writes that
a move in flight waits for land (R213). -/
def State.prepareStop (s : State) (c t : Nat) (trap : Option Nat) : State :=
  let ms := s.moves.filter fun m => m.ctx = c
  ({ s with free := s.free + 8 }.modCtx c fun x => x.stop t s.free trap).landStores c fun r => ms.any fun m => m.overlaps r

/-- A CHKEQ mismatch that is taken notes its operands and its bundle's address (R374). -/
def Ctx.noteCheck (x : Ctx) (f : FaultInfo) : Ctx :=
  if f.cls = 0x0C then { x with chkv := true, chka := f.det0, chkb := f.det1, chkpc := f.faddr } else x

/-- Before a save for a fault (R353, R374). -/
def State.prepareSave (s : State) (c : Nat) (f : FaultInfo) : State :=
  (s.prepareStop c ((s.ctx c).stopEntry f) f.trapEntry).modCtx c fun x => x.noteCheck f

/-- The state of R49 in a context, with given s1, s29, s30 and PEND; CTL.PART and the supervisor CSRs keep their values. -/
def Ctx.fresh (x : Ctx) (s1v s2v s29v s30v : Word) (pendBit : Bool) : Ctx :=
  let ctl : Word := ((x.csrCell csrCTL).settled &&& 0xE0) ||| (if pendBit then 16 else 0)
  { x with
    entry := 1
    queue := []
    front := []
    syncs := []
    redirects := []
    nulls := []
    s := [(1, Cell.of s1v), (2, Cell.of s2v), (29, Cell.of s29v), (30, Cell.of s30v)]
    p := []
    v := []
    shapeA := []
    shapeS := []
    loop := none
    lend := [LendSt.start, LendSt.start, LendSt.start, LendSt.start]
    stores := []
    arrival := none
    waitP0 := none
    pages := []
    csr := (csrCTL, Cell.of ctl) :: x.csr.filter fun e => 2048 ≤ e.1 }

/-- TAKING A TRAP (R356), the one operation that every precise fault, trap and imprecise fault of user mode goes through: the
context is saved (R353-R355) into the save area at TREC; the trap record, TCAUSE, EPC and SSTAT are written; SSTAT.MODE
becomes 1 and dispatch goes on at TVEC with the state of R49, but for s1, s29 and s30. -/
def State.takeTrap (s : State) (c : Nat) (f : FaultInfo) : State :=
  let p := (s.prepareSave c f).ctx c
  s.withSave c p.trec (areaPages p.trec (saveExtent p)) fun s =>
    let s := s.prepareSave c f
    let x := s.ctx c
    match x.task with
    | none => s
    | some t =>
      let s := s.writeImage c x.trec (saveImage x t.trec f)
      let y := x.settleRegs
      let kept : UserSave :=
        { pc := y.pc, syncs := y.syncs, stores := y.inflightStores, pops := y.inflightPops
          sldA := y.scaleA.pend, sldB := y.scaleB.pend, nulls := y.nulls
          preds := y.p.flatMap (fun e => e.2.pend.map fun k => (e.1, k)), fst := 0, attn := 0, firstId := s.nextId }
      let z := (((y.putCsr csrTCAUSE f.tcause).putCsr csrEPC y.pc).putCsr csrSSTAT (y.delayState ||| 1)).fresh x.trec t.trec.arg2 0 0 t.trec.pend
      s.setCtx c
        { z with
          pc := (x.csrCell csrTVEC).settled
          task := some { t with fault := none }
          scaleA := { y.scaleA with pend := [] }
          scaleB := { y.scaleB with pend := [] }
          saved := some kept
          chkv := false
          inHandler := true }

/-- The trap record alone is written, with the frontiers where the fault g stops the slots, and the task is killed: divergence, a supervisor
fault (R353, R356, R358, R374). f is what the record reports. -/
def State.killRecorded (s : State) (c : Nat) (g f : FaultInfo) : State :=
  let base := (s.ctx c).trec
  s.withSave c base (areaPages base [(0, 256)]) fun s =>
    let x := (s.prepareSave c g).ctx c
    (((s.prepareSave c g).writeImage c base [(0, trapRecord x f)]).modCtx c fun x => x.putCsr csrTCAUSE f.tcause).killCtx c (some base)

/-- The tiles of a PART code: first and count (R244). -/
def partWindow (p : BitVec 3) : Nat × Nat :=
  match p.toNat with
  | 0 => (0, 64)
  | 1 => (0, 32)
  | 2 => (32, 32)
  | 3 => (0, 16)
  | 4 => (16, 16)
  | 5 => (32, 16)
  | 6 => (48, 16)
  | _ => (0, 0)

/-- The two ranges of a footprint in the scratchpad: offset and length (R288). -/
def footprint (t : TaskRec) : List (Nat × Nat) := [(64 * t.foff, 64 * t.len0), (0x200000 + 64 * t.foff, 64 * t.len1)]

/-- The completion area of a context (R210). -/
def complOff (c h : Nat) : Nat := 0x3FFE00 + 128 * (c % 4) + 32 * h

/-- The transpose buffer's 16 KiB, row by row (R184, R368). -/
def Ctx.tuBytes (x : Ctx) : List Byte := (List.range 64).flatMap fun r => leBytes 256 (Sparse.get (0 : VReg) x.tu.buf r).toNat

/-- The cells of memory in a range. -/
def cellsIn (m : List Host.Cell) (a n : Nat) : List Host.Cell := m.filter fun e => a ≤ e.1 && e.1 < a + n

/-- Bytes of a core's memories, read among the cells of their range. -/
def rangeBytes (m : List Host.Cell) (a n : Nat) : List Byte := readBytes (cellsIn m a n) a n

/-- The tiles of a context that a save holds: those of CTL.PART as the save stores it (R246, R355, R368). -/
def Ctx.savedPart (x : Ctx) : Nat × Nat := partWindow (ctlPart (x.csrCell csrCTL).settle.base)

/-- The rows that only a save for pre-emption writes (R368). -/
def preemptRows (s : State) (c : Nat) (x : Ctx) (t : TaskRec) : List (Nat × List Byte) :=
  let q := coreOf c
  let w := x.savedPart
  let spec := !t.conds.isEmpty
  [(0xD00, engineRow x), (0x3000, leBytes 512 x.scaleA.settled.toNat ++ leBytes 512 x.scaleB.settled.toNat), (0x3400, x.tuBytes)] ++
    (if spec then [(0x7400, rangeBytes s.mem (spadPA q (complOff c 0)) 128)] else []) ++
    [(0x21000, rangeBytes s.mem (tilePA q w.1 0) (16384 * w.2))] ++
    (if spec then (footprint t).map fun r => (0x121000 + (if r.1 < 0x200000 then 0 else 64 * t.len0), rangeBytes s.mem (spadPA q r.1) r.2) else [])

/-- The offsets and sizes of those rows (R368). -/
def preemptExtent (x : Ctx) (t : TaskRec) : List (Nat × Nat) :=
  [(0xD00, 256), (0x3000, 1024), (0x3400, 16384), (0x21000, 16384 * x.savedPart.2)] ++
    (if t.conds.isEmpty then [] else [(0x7400, 128), (0x121000, 64 * (t.len0 + t.len1))])

/-- A fault record for a save that no fault causes. -/
def noFault : FaultInfo := ⟨0, 0, 0, 0, 0, 0, 0, 0, 0, 0, false, false⟩

/-- Take up a drained loop again: the iterations not started (R157). -/
def Ctx.resumeLoop (x : Ctx) : Ctx :=
  match x.loop with
  | some l =>
    if l.drained then
      { x with
        loop := some l.rest
        pc := l.body
        task := x.task.map fun t => { t with extra := t.extra + l.drainCost } }
    else x
  | none => x

/-- The save of a context for pre-emption or under R324 with a held fault: the image is written, the task leaves its context
and waits among the saved tasks (R353, R371, R324). A speculative task waits for its X syllables first (R371). -/
def State.saveTask (s : State) (c : Nat) (fault : Option FaultInfo) : State :=
  let ready (s : State) : State := match fault with
    | some f => s.prepareSave c f
    | none => (s.prepareStop c (s.ctx c).entry none).modCtx c Ctx.resumeLoop
  let p := (ready s).ctx c
  match p.task with
  | none => s
  | some t =>
    if !t.trec.conds.isEmpty && s.moves.any (fun m => m.ctx = c && m.uid = t.uid) then s.stallCtx c
    else
      s.withSave c p.trec (areaPages p.trec (saveExtent p ++ preemptExtent p t.trec)) fun s =>
        let s := ready s
        let x := s.ctx c
        let s := s.writeImage c x.trec (saveImage x t.trec (fault.getD noFault) ++ preemptRows s c x t.trec)
        let q := coreOf c
        let y := x.settleRegs
        let y := { y with
          csr := Sparse.put (Sparse.put (Sparse.put y.csr csrPREEMPT (Cell.of 0)) csrEPC (Cell.of y.pc)) csrSSTAT (Cell.of y.delayState)
          task := y.task.map fun t => { t with fault := none }
          pages := []
          preemptReq := false }
        let spec := !t.trec.conds.isEmpty
        let tags := if spec then s.tags.filter fun e => (footprint t.trec).any (fun r =>
          spadPA q r.1 ≤ 8 * e.1 && 8 * e.1 < spadPA q r.1 + r.2) ||
          (spadPA q (complOff c 0) ≤ 8 * e.1 && 8 * e.1 < spadPA q (complOff c 0) + 128) else []
        let rec' : SavedTask := ⟨y, c, fault, spec, tags⟩
        { s with saved := s.saved ++ [rec'] }.freeCtx c

/-- A syllable of a context waits for a reason. -/
def Ctx.waitsFor (x : Ctx) (b : Block) : Bool := x.queue.any fun d => d.left.any fun q => q.blk = some b

/-- A syllable of a context waits on a block event (R33). -/
def Ctx.blocked (x : Ctx) : Bool := x.queue.any fun d => d.left.any fun q => q.blk.any Block.isEvent

/-- No syllable of a context waits for a reason any more. -/
def Ctx.free (x : Ctx) (b : Block) : Ctx :=
  let go (q : Queued) : Queued := if q.blk = some b then { q with blk := none } else q
  { x with queue := x.queue.map fun d => { d with left := d.left.map go } }

/-- A syllable has still to issue, or is an interlocked access in progress, which completes before a save (R283), or its wait is over since
its word has become BROKEN (R275). -/
def Queued.goes (q : Queued) : Bool := q.blk = some .interlocked || q.blk = some .broken || !q.blk.any Block.isEvent

/-- A precise fault waits for the slots to issue their entries below it (R352, R353), and for waits that are over since their word has become
BROKEN to end (R275). -/
def Ctx.draining (x : Ctx) (f : FaultInfo) : Bool :=
  !f.imprec && ((x.queue.any fun d => d.entry < f.fent && d.left.any Queued.goes) || x.waitsFor .broken)

/-- DELIVERING a fault that a context's task has raised, once the slots have issued the entries below it and a RECAST that has closed its range is complete (R353), a save area is read (R371) and
its commits are performed (R320): a kill where the class is one (R356, R358), held for a speculative
task (R324), else a trap. -/
def State.deliver (s : State) (c : Nat) : State :=
  let x := s.ctx c
  match x.task with
  | none => s
  | some t =>
    match t.fault with
    | none => s
    | some f =>
      if x.waitsFor .recast || x.restore.isSome || s.committing t.uid || x.draining f then s
      else if f.cls = 0x26 then s.killRecorded c f f
      else if x.supervisor then s.killRecorded c f { f with cls := 0x27, sub := 0, imm := 0, det0 := 0, det1 := 0, imprec := false, fatal := true }
      else if f.cls = 0x24 then s.killRecorded c f f
      else if !t.trec.conds.isEmpty && f.cls ≠ 0x0D then s.saveTask c (some f)
      else s.takeTrap c f

/-- Note a fault of a context's task, to be delivered before anything else of the context (R352, R359). Of two the one that came
first stands, but of two precise ones that of the lower entry (log 75); an imprecise fault not yet detected comes before it (log 81). A
task that has been killed keeps the record of its kill (DESIGN CHOICE, log 97). -/
def State.noteFault (s : State) (c : Nat) (f : FaultInfo) : State :=
  let f := match (s.ctx c).late with
    | [] => f
    | k :: _ => k.2
  let note (t : Task) : Task := if t.dead then t else match t.fault with
    | none => { t with fault := some f }
    | some g => if !f.imprec && !g.imprec && f.fent < g.fent then { t with fault := some f } else t
  s.modCtx c fun x => { x with task := x.task.map note, late := [] }

/-- A fault of the syllable in issue (R352). -/
def State.here (s : State) (f : Flt) : FaultInfo :=
  ⟨f.cls, f.sub, f.imm, f.det0, f.det1, s.cur.op, s.cur.slot.num, s.cur.pos, s.cur.entry, s.cur.pc, false, f.cls = 0x24⟩

/-- Raise a precise fault: the syllable has no effect (R352). -/
def State.raise (s : State) (f : Flt) : State := (s.noteFault s.cur.ctx (s.here f)).deliver s.cur.ctx

/-- Raise the precise fault of a failed check, or go on. -/
def State.check {α : Type} (s : State) (r : Except Flt α) (k : α → State) : State :=
  match r with
  | .ok a => k a
  | .error f => s.raise f

/-- An imprecise fault of the syllable in issue: the syllable has issued, its destination is not written. It is detected at once, or, by
the schedule's choice, later, before a slot issues an entry 16 or more above (R359; log 81). -/
def State.raiseAs (s : State) (f : FaultInfo) : State :=
  let f := { f with imprec := true, fatal := true }
  let c := s.cur.ctx
  let s := s.retire
  if s.lags.contains c then
    { s.modCtx c fun x => { x with late := x.late ++ [(s.cur.entry + 16, f)] } with lags := s.lags.filter (· ≠ c) }
  else (s.noteFault c f).deliver c

/-- An imprecise fault whose record names the syllable in issue. -/
def State.raiseLate (s : State) (cls sub : BitVec 8) (det0 : Word) : State := s.raiseAs (s.here (flt cls sub det0 0))

/-- The imprecise faults of a context that have not been detected are (R359). -/
def State.detect (s : State) (c : Nat) : State :=
  match (s.ctx c).late with
  | [] => s
  | k :: _ => (s.noteFault c k.2).deliver c

/-- An error that the schedule has set for the next read of the scratchpads by the syllable in issue (R359, R378): whether its record
names the syllable. -/
def State.struck (s : State) : Option Bool :=
  s.strikes.findSome? fun k => match k with
    | .read c sl named => if c = s.cur.ctx && sl = s.cur.slot then some named else none
    | _ => none

/-- An uncorrectable error in what the syllable in issue reads (R203, R359, R378). -/
def State.raiseStruck (s : State) (sub : BitVec 8) (det0 : Word) (named : Bool) : State :=
  let f := s.here (flt 0x20 sub det0 0)
  let f := if named then f else { f with op := 0, slot := 0, pos := 0, fent := 0, faddr := 0 }
  { s with strikes := s.strikes.filter fun k => k ≠ Strike.read s.cur.ctx s.cur.slot named }.raiseAs f

/-- A fault raised at dispatch, with the fields of R367. -/
def State.atDispatch (s : State) (c : Nat) (cls sub : BitVec 8) (op : BitVec 6) (slot pos : Nat) (det0 : Word) : FaultInfo :=
  let x := s.ctx c
  ⟨cls, sub, 0, det0, 0, op, slot, pos, x.entry, x.pc, false, false⟩

end Sys2Proof.Machine
end

