-- ==== Sys2Proof/Machine/Operands.lean ====
section
/-! DEFINITION. The operand forms: scalar, predicate, vector and CSR reads, guards, and the checks made before an effect
(R53, R54, R67, R68, R74, R117, R118, R315). -/

namespace Sys2Proof.Machine

/-- A read of a CSR by the slot in issue. -/
def State.readCsr (s : State) (n : Nat) : Word × State :=
  let r := (s.cx.csrCell n).read s.cx.syncs s.cur.slot s.cur.entry s.free
  (r.1, { s with free := r.2 })

/-- A write that has issued and not landed, by its slot's entries. -/
def Write.flying {w : Nat} (x : Ctx) (k : Write w) : Bool := !k.isDue x.reach

/-- A read by a slot at its entry e waits for a result of another slot that it sees and that has not landed: the cross-slot hold (R43). -/
def Write.holdsFor {w : Nat} (x : Ctx) (sl : Slot) (e : Nat) (k : Write w) : Bool :=
  k.flying x && seenBy x.syncs sl k.slot k.entry k.lat k.land k.exact e = .new

/-- A read by a slot at its entry e finds a register's pending bit set by a write (R47): the write has issued and not landed, and no
cross-slot hold covers the read (R43). -/
def Write.pendingFor {w : Nat} (x : Ctx) (sl : Slot) (e : Nat) (k : Write w) : Bool :=
  k.entry < e && k.flying x && seenBy x.syncs sl k.slot k.entry k.lat k.land k.exact e ≠ .new

/-- A read of a register by the syllable in issue, by a way of reading: a result of another slot that it sees holds it until the result
lands (R43); under CTL.PEND a pending result traps (R47); else it has the value that its slot sees. -/
def State.readBy {w : Nat} (s : State) (way : List Nat → Slot → Nat → Cell w → Nat → BitVec w × Nat) (c : Cell w)
    (k : BitVec w → State → State) : State :=
  let go (s : State) : State :=
    let r := way s.cx.syncs s.cur.slot s.cur.entry c s.free
    k r.1 { s with free := r.2 }
  if c.pend.any fun k => k.holdsFor s.cx s.cur.slot s.cur.entry then s.stall
  else if c.pend.any fun k => k.pendingFor s.cx s.cur.slot s.cur.entry then
    let p := s.readCsr csrCTL
    if ctlPend p.1 then p.2.raise (flt 0x10 0 0 0) else go p.2
  else go s

/-- A read of a register, predicate or CSR by the syllable in issue (R40-R47). -/
def State.readCell {w : Nat} (s : State) (c : Cell w) (k : BitVec w → State → State) : State := s.readBy Cell.read c k

/-- Read a scalar register; s0 reads as zero (R53). -/
def State.readS (s : State) (r : BitVec 5) (k : Word → State → State) : State :=
  if r = 0 then k 0 s else s.readCell (s.cx.sreg r.toNat) k

/-- Read a predicate; p0 reads as all ones (R53). -/
def State.readP (s : State) (r : BitVec 4) (k : Word → State → State) : State :=
  if r = 0 then k (BitVec.allOnes 64) s else s.readCell (s.cx.preg r.toNat) k

/-- A bank of a vector register is lent at an entry (R164). -/
def LendSt.at (l : LendSt) (e : Nat) : Option Eng := if l.since < e then l.now else l.before

/-- The lend state of bank n. -/
def Ctx.bank (x : Ctx) (n : Nat) : LendSt := x.lend.getD n LendSt.start

/-- Go on when the bank of a vector register is not lent (R54, R164). -/
def State.unlent (s : State) (r : BitVec 5) (k : State → State) : State :=
  if ((s.cx.bank (r.toNat / 8)).at s.cur.entry).isSome then s.raise (flt 0x07 0 0 0) else k s

/-- Read a vector register; a lent bank faults (R54). -/
def State.readV (s : State) (r : BitVec 5) (k : VReg → State → State) : State :=
  s.unlent r fun s => s.readCell (s.cx.vreg r.toNat) k

/-- A 5-bit guard: bit 4 negates, g = 0 is unguarded (R67). A syllable whose guard does not hold only retires (R118). -/
def State.guard5 (s : State) (g : BitVec 5) (k : State → State) : State :=
  s.readP (g.setWidth 4) fun v s => if v.getLsbD 0 != g.getLsbD 4 then k s else s.retire

/-- A 4-bit guard (R67). -/
def State.guard4 (s : State) (g : BitVec 4) (k : State → State) : State :=
  s.readP g fun v s => if v.getLsbD 0 then k s else s.retire

/-- A check of supervisor mode (R74). -/
def State.privileged (s : State) (k : State → State) : State :=
  if s.cx.supervisor then k s else s.raise (flt 0x02 1 0 0)

/-- The guard of an M or T syllable, which raises the privilege fault in supervisor mode (R67, R356). -/
def State.guardUnit (s : State) (g : BitVec 4) (k : State → State) : State :=
  s.guard4 g fun s => if s.cx.supervisor then s.raise (flt 0x02 1 0 0) else k s

/-- A speculative task's access that its rules hold back stalls, as a block event, until the task is no longer speculative
(R315, R317). -/
def State.unlessSpec (s : State) (k : State → State) : State :=
  if s.cx.speculative then s.block .speculation else k s

end Sys2Proof.Machine
end

