-- ==== Sys2Proof/Machine/Fetch.lean ====
section
/-! DEFINITION. Fetching and decoding bundles (R62-R66, R88, R398), and the addresses that dispatch takes next. -/

namespace Sys2Proof.Machine

/-- Why a fetch does not give a word: a page to translate, or a precise fault of the bundle fetched. -/
inductive FetchStop where
  | page (n : Nat)
  | fault (f : Flt)
  deriving DecidableEq, Repr

/-- The syllable word at an address, fetched through window 0x0 with the PASID of the context (R62, R398). A fetch outside
window 0x0 raises the window fault (log 11). -/
def State.fetchWord (s : State) (c : Nat) (a : Word) : Except FetchStop (BitVec 32) :=
  if wfld a 57 7 ≠ 0 then .error (.fault (wWindow a))
  else
    match s.pageOf c (a.toNat / 4096) false with
    | none => .error (.page (a.toNat / 4096))
    | some (.at t _ _) => .ok (BitVec.ofNat 32 (readNat s.mem (t + a.toNat % 4096) 4))
    | some _ => .error (.fault (flt 0x0B 1 a 0))

/-- The syllables of the bundle at an address: slot number, position and syllable of each, or the first that fails to decode
(R63-R66). n bounds the syllables still allowed; the context's own fetch fault comes with its address. -/
def State.decodeFrom (s : State) (c : Nat) : Nat → Word → Option Nat → Nat → Except FetchStop (Except BadSyl (List Queued))
  | 0, _, _, _ => .ok (.ok [])
  | n + 1, a, prev, pos =>
    match s.fetchWord c a with
    | .error e => .error e
    | .ok w =>
      match decodeAt w prev pos with
      | .error b => .ok (.error b)
      | .ok (k, y) =>
        if y.last then .ok (.ok [⟨Slot.ofNum k, pos, y, none, none, []⟩])
        else
          match s.decodeFrom c n (a + 4) (some k) (pos + 1) with
          | .error e => .error e
          | .ok (.error b) => .ok (.error b)
          | .ok (.ok l) => .ok (.ok (⟨Slot.ofNum k, pos, y, none, none, []⟩ :: l))

/-- The bundle at a context's pc. -/
def State.fetchBundle (s : State) (c : Nat) : Except FetchStop (Except BadSyl (List Queued)) :=
  s.decodeFrom c 8 (s.ctx c).pc none 0

/-- Syllables of the bundle at an address, by its E bits: at most eight (R63). -/
def State.bundleLen (s : State) (c : Nat) : Nat → Word → Except FetchStop Nat
  | 0, _ => .ok 0
  | n + 1, a =>
    match s.fetchWord c a with
    | .error e => .error e
    | .ok w =>
      if w.getLsbD 31 then .ok 1
      else
        match s.bundleLen c n (a + 4) with
        | .error e => .error e
        | .ok k => .ok (k + 1)

/-- The address after n bundles in address order. -/
def State.skipBundles (s : State) (c : Nat) : Nat → Word → Except FetchStop Word
  | 0, a => .ok a
  | n + 1, a =>
    match s.bundleLen c 8 a with
    | .error e => .error e
    | .ok k => s.skipBundles c n (a + BitVec.ofNat 64 (4 * k))

/-- What dispatch does at a boundary before it takes the next entry: a redirect that is due (R146), else the end of a loop
whose passes are exhausted (R153) or the start of a pass. A loop of no pass goes on after its body. -/
def State.boundary (s : State) (c : Nat) (x : Ctx) : Except FetchStop Ctx :=
  if x.redirectDue.isSome then .ok x.applyRedirect
  else
    match x.loop with
    | none => .ok x
    | some l =>
      if l.spent then
        if l.passes = 0 then
          match s.skipBundles c l.len l.body with
          | .error e => .error e
          | .ok a => .ok { x.endLoops with pc := a }
        else .ok x.endLoops
      else .ok { x with loop := some { l with started := true } }

/-- The address that follows, in address order, the second bundle that dispatch takes next: JAL's link (R148). -/
def State.linkAddr (s : State) (c : Nat) : Except FetchStop Word := do
  let x1 ← s.boundary c (s.ctx c)
  let k1 ← s.bundleLen c 8 x1.pc
  let x2 ← s.boundary c (x1.advance k1)
  let k2 ← s.bundleLen c 8 x2.pc
  return x2.pc + BitVec.ofNat 64 (4 * k2)

end Sys2Proof.Machine
end

