-- ==== Sys2Proof/Machine/Shapes.lean ====
section
/-! DEFINITION. Shape registers as engine syllables and loops use them (R72, R135, R154, R223, R224). -/

namespace Sys2Proof.Machine

/-- The fields of a shape register (R72, log 7). A bound of 0 reads as 1. -/
def shBase (v : ShapeBits) : Word := v.extractLsb' 0 64
def shEs (v : ShapeBits) : Nat := 2 ^ (v.extractLsb' 64 3).toNat
def shBound (v : ShapeBits) (k : Nat) : Nat := max 1 (v.extractLsb' (128 + 16 * k) 16).toNat
def shStride (v : ShapeBits) (k : Nat) : Int := (v.extractLsb' (256 + 32 * k) 32).toInt
def shBounds (v : ShapeBits) : List Nat := (List.range 6).map (shBound v)
def shCount (v : ShapeBits) : Nat := (shBounds v).foldl (· * ·) 1

/-- The index vector of element or iteration m, i0 varying fastest (R154). -/
def indexVec : List Nat → Nat → List Nat
  | [], _ => []
  | n :: ns, q => q % n :: indexVec ns (q / n)

/-- Σ ik·dk over dimensions from k on. -/
def dotStrides (v : ShapeBits) : Nat → List Nat → Int
  | _, [] => 0
  | k, i :: is => (i : Int) * shStride v k + dotStrides v (k + 1) is

/-- The footprint term of element m: Σ ik·dk with the index vector of the register's own bounds (R207, R225). -/
def footTerm (v : ShapeBits) (m : Nat) : Int := dotStrides v 0 (indexVec (shBounds v) m)

/-- The loop offset Λ over dimensions whose bound reads as 1 (R223). -/
def loopOffset (v : ShapeBits) : Nat → List Nat → Int
  | _, [] => 0
  | k, i :: is => (if shBound v k = 1 then (i : Int) * shStride v k else 0) + loopOffset v (k + 1) is

/-- The index vector that a syllable works on: in a LOOPN or LOOPP pass, that of iteration j - s when its guard names p(8 + s),
else that of iteration j; elsewhere every index is 0 (R154, R223). l is the loop from which its bundle was dispatched. For an
iteration below 0 it is that of iteration 0, and beyond N - 1 the formula goes on (DESIGN CHOICE, log 79). -/
def loopIndex (l : Option LoopSt) (g : BitVec 4) : List Nat :=
  match l with
  | none => [0, 0, 0, 0, 0, 0]
  | some l =>
    if l.kind = .loop then [0, 0, 0, 0, 0, 0]
    else
      let st := if 8 ≤ g.toNat then g.toNat - 8 else 0
      indexVec l.bounds (l.first + (l.pass - st))

/-- Λ of the syllable in issue, with guard g, over a shape register (R223). -/
def State.lambda (s : State) (g : BitVec 4) (v : ShapeBits) : Int := loopOffset v 0 (loopIndex s.disp.loop g)

/-- A W exchange to be made when the syllable takes effect: register, new active and new shadow values. -/
structure Exchange where
  reg    : Nat
  active : ShapeBits
  shadow : ShapeBits
  deriving DecidableEq, Repr

/-- The shape register a syllable uses: after the exchange when W is set (R72, R135). -/
def State.readShape (s : State) (r : Nat) (w : Bool) (k : ShapeBits → List Exchange → State → State) : State :=
  s.readCell (s.cx.shapeActive r) fun a s =>
    if w then s.readCell (s.cx.shapeShadow r) fun b s => k b [⟨r, b, a⟩] s
    else k a [] s

/-- Make exchanges: at issue, in the engine's slot (R135). -/
def State.exchange (s : State) (es : List Exchange) : State :=
  es.foldl (fun s e => s.modCx fun x =>
    { x with
      shapeA := Sparse.put x.shapeA e.reg ((x.shapeActive e.reg).push (s.mkWrite 0 false (BitVec.allOnes 512) e.active))
      shapeS := Sparse.put x.shapeS e.reg ((x.shapeShadow e.reg).push (s.mkWrite 0 false (BitVec.allOnes 512) e.shadow)) }) s

end Sys2Proof.Machine
end

