-- ==== Sys2Proof/Machine/Branch.lean ====
section
/-! DEFINITION. Branches, hardware loops, and the steps of dispatch between bundles (R144-R157, R66, R243, R305). -/

namespace Sys2Proof.Machine

/-- A taken branch at entry k redirects entry k + 3 (R146). -/
def State.redirectTo (s : State) (t : Word) : State :=
  s.modCx fun x => { x with redirects := x.redirects ++ [(s.cur.entry + 3, t)] }

/-- B (R145, R146): taken when its guard holds; with n = 1 a branch not taken nullifies its delay slots. -/
def execBranch (g : BitVec 5) (n : BitVec 1) (d : BitVec 15) (s : State) : Out :=
  .next (s.readP (g.setWidth 4) fun v s =>
    if v.getLsbD 0 != g.getLsbD 4 then (s.redirectTo (s.cur.pc + 4 * d.signExtend 64)).retire
    else if n = 1 then (s.modCx fun x => { x with nulls := x.nulls ++ [s.cur.entry + 1, s.cur.entry + 2] }).retire
    else s.retire)

/-- JAL (R145, R148): a link that cannot be fetched is a free value, and the bundles it skips fault when they are dispatched
(log 11). -/
def execJal (d : BitVec 5) (i : BitVec 16) (s : State) : Out :=
  let t := s.cur.pc + 4 * i.signExtend 64
  .next (match s.linkAddr s.cur.ctx with
    | .ok a => ((s.writeS d 1 a).redirectTo t).retire
    | .error (.page p) => s.withPages s.cur.ctx [(p, false)] fun s => s
    | .error (.fault _) =>
      let f := s.freeBits 64
      ((f.2.writeS d 1 f.1).redirectTo t).retire)

/-- JR (R145): taken when its guard holds; a misaligned target faults at issue. -/
def execJr (g a : BitVec 5) (s : State) : Out :=
  .next (s.guard5 g fun s => s.readS a fun t s =>
    if wfld t 0 2 ≠ 0 then s.raise (wMisaligned t) else (s.redirectTo t).retire)

/-- Start a loop over the bundles that follow (R152, R155). -/
def State.startLoop (s : State) (kind : LoopKind) (body : BitVec 6) (n stages : Nat) (bounds : List Nat) : State :=
  let start := s.cur.pc + BitVec.ofNat 64 (4 * s.disp.len)
  (s.modCx fun x =>
    { x.endLoops with
      pc := start
      loop := some ⟨kind, start, body.toNat + 1, n, stages, 0, 0, false, 0, 0, false, bounds⟩ }).retire

/-- LOOP (R152): the count is sa as an unsigned number. -/
def execLoop (b : BitVec 6) (a : BitVec 5) (s : State) : Out :=
  .next (s.readS a fun n s => s.startLoop .loop b n.toNat 1 [])

/-- LOOPN (R152): the nest is the active X shape register h. -/
def execLoopn (b : BitVec 6) (h : BitVec 2) (s : State) : Out :=
  .next (s.readShape (12 + h.toNat) false fun v _ s => s.startLoop .loopn b (shCount v) 1 (shBounds v))

/-- LOOPP (R152, R153). -/
def execLoopp (b : BitVec 6) (h st : BitVec 2) (s : State) : Out :=
  .next (s.readShape (12 + h.toNat) false fun v _ s => s.startLoop .loopp b (shCount v) (st.toNat + 1) (shBounds v))

/-- A pre-emption request has reached a LOOPP at a pass boundary: from this pass on p8 stays clear (R157). -/
def LoopSt.drain (l : LoopSt) : LoopSt := { l with draining := true, limit := min l.pass l.count }

/-- The stages of a pass (R153). -/
def LoopSt.stageOn (l : LoopSt) (st : Nat) : Bool := (l.iter st).isSome

/-- The place in a loop at which a pre-emption can take effect (R157). -/
def Ctx.loopPoint (x : Ctx) : Bool :=
  match x.loop with
  | none => true
  | some l => match l.kind with
    | .loop => true
    | .loopn => !l.started
    | .loopp => l.drained

/-- The next bundle would make the charge exceed the budget (R50, R305); handler entries are not charged, nor is a bundle of a pass
that a drain adds. -/
def Ctx.overBudget (x : Ctx) : Bool :=
  let free := if x.loop.any fun l => l.adds && l.limit ≤ l.pass then 1 else 0
  match x.task with
  | some t => !x.supervisor && t.trec.budget < x.entry - x.added - free
  | none => false

/-- A bundle holds an MNOP for an engine (R243). -/
def hasMnop (e : BitVec 1) (l : List Queued) : Bool :=
  l.any fun q => match q.syl.instr with
    | .mnop _ k => k = e
    | _ => false

/-- The engine whose MNOP the next bundle owes and does not hold (R243). -/
def Ctx.mnopMissing (x : Ctx) (l : List Queued) : Option Eng :=
  if x.supervisor then none
  else if x.fmtA.owed = some x.entry && !hasMnop 0 l then some .ma
  else if x.fmtB.owed = some x.entry && !hasMnop 1 l then some .mb
  else none

/-- A task's prelude has not been issued or has not completed (R303). -/
def State.preludeBusy (s : State) (c : Nat) : Bool :=
  match (s.ctx c).task with
  | some t => t.prelude.isSome || s.moves.any (fun m => m.ctx = c && m.uid = t.uid && m.entry = 0)
  | none => false

/-- A context holds a task that has started and is restored, and is not stopped. -/
def State.holds (s : State) (c : Nat) : Bool :=
  let x := s.ctx c
  x.task.any (fun t => !t.dead) && x.restore.isNone && !s.preludeBusy c && !s.committing x.uid

/-- A context is ready (R33): it holds a task and is not blocked, or has a fault to deliver. -/
def State.ready (s : State) (c : Nat) : Bool :=
  let x := s.ctx c
  (s.holds c && !x.blocked) || (x.faulted && x.restore.isNone && !s.committing x.uid && x.task.any fun t => !t.dead)

/-- Dispatch waits for a syllable's issue: a branch (R149), a loop instruction (R152), END (R159), ERET (R357), MFMT (R243). -/
def holdsDispatch : Instr → Bool
  | .branch _ _ _ => true
  | .jal _ _ => true
  | .jr _ _ => true
  | .loop _ _ => true
  | .loopn _ _ => true
  | .loopp _ _ _ => true
  | .endTask => true
  | .eret => true
  | .mfmt _ _ _ _ => true
  | _ => false

/-- A store of a move meets a page that parks it, or a PREQ awaits the host's answer: its denial is an imprecise fault (R219, R278). -/
def State.deniable (s : State) (m : Move) : Bool :=
  (m.pages.any fun p => p.2 = .host) || m.dst.any fun b => (s.parks (coreOf m.ctx) m.pasid b).isSome

/-- The entries of a context's moves whose denial may come: no slot goes on to an entry 16 or more above one (R7, R278, R359). While a handler
runs, those of the handler's own moves. -/
def State.skidEntries (s : State) (c : Nat) : List Nat :=
  let x := s.ctx c
  let own (uid id : Nat) : Bool := uid = x.uid && x.saved.all fun u => u.firstId ≤ id
  ((s.moves.filter fun m => m.ctx = c && own m.uid m.id && s.deniable m).map Move.entry) ++
    ((s.core (coreOf c)).replay.filterMap fun p => if p.ctx = c && own p.uid p.op && !p.commit then p.entry else none)

/-- Dispatch of a context can go on (R33, R37, R149, R152, R157): it is ready and has no fault, no syllable in its queues holds it, the
slowest slot lies less than 16 entries behind, no imprecise fault must be detected first (R278, R359), and it does not stop for a
pre-emption. -/
def State.mayDispatch (s : State) (c : Nat) : Bool :=
  let x := s.ctx c
  s.holds c && ((s.skidEntries c).all fun e => x.entry < e + 16) && !x.blocked && !x.faulted && (x.late.all fun k => x.entry < k.1) && !(x.queue.any fun d => d.left.any fun q => holdsDispatch q.syl.instr) && x.entry < x.low + 16 &&
    !(x.preemptReq && !x.supervisor && x.loopPoint)

/-- The loop's stage predicates change only when every slot has issued what was dispatched (R153; log 6). -/
def Ctx.stagesFree (x : Ctx) : Bool := x.low = x.entry || !(x.loop.any fun l => l.kind = .loopp)

/-- What dispatch of a context does next. -/
inductive NextDisp where
  | hold
  | redirect
  | loopEnd (l : LoopSt)
  | loopPass (l : LoopSt)
  | page (n : Nat)
  | fault (f : Flt)
  | undefined (b : BadSyl)
  | noMnop (e : Eng)
  | overrun
  | bundle (l : List Queued)
  deriving DecidableEq, Repr

/-- The bundle at a context's address, checked in the order of R352 (R66, R243, R305). -/
def State.checkBundle (s : State) (c : Nat) : NextDisp :=
  match s.fetchBundle c with
  | .error (.page p) => .page p
  | .error (.fault f) => .fault f
  | .ok (.error b) => .undefined b
  | .ok (.ok l) =>
    match (s.ctx c).mnopMissing l with
    | some e => .noMnop e
    | none => if (s.ctx c).overBudget then .overrun else .bundle l

/-- What dispatch of a context does next (R146, R153, R352): a redirect that is due, a loop's boundary, or the next bundle. -/
def State.nextDisp (s : State) (c : Nat) : NextDisp :=
  let x := s.ctx c
  if !s.mayDispatch c then .hold
  else if x.redirectDue.isSome then (if x.stagesFree then .redirect else .hold)
  else
    match x.loop with
    | some l =>
      if l.spent then (if x.stagesFree then .loopEnd l else .hold)
      else if l.moreAt then (if x.stagesFree then .loopPass l else .hold)
      else s.checkBundle c
    | none => s.checkBundle c

/-- REDIRECT (R146): a redirect that is due applies and ends every loop. -/
def execRedirect (c : Nat) (s : State) : Out :=
  .next (match s.nextDisp c with
    | .redirect => s.modCtx c Ctx.applyRedirect
    | _ => s)

/-- LOOP_PASS (R153): the next pass may dispatch; LOOPP sets its stage predicates. -/
def execLoopPass (c : Nat) (s : State) : Out :=
  .next (match s.nextDisp c with
    | .loopPass l =>
      let x := s.ctx c
      let l := if l.kind = .loopp && x.preemptReq && !x.supervisor && !l.draining then l.drain else l
      if l.moreAt then
        let y := if l.kind = .loopp then x.setStages l.stageOn else x
        s.setCtx c { y with loop := some { l with started := true } }
      else s.setCtx c { x with loop := some l }
    | _ => s)

/-- LOOP_END (R153): no pass is left; dispatch goes on after the body. -/
def execLoopEnd (c : Nat) (s : State) : Out :=
  .next (match s.nextDisp c with
    | .loopEnd l =>
      let x := s.ctx c
      if l.drained then s.setCtx c x.resumeLoop
      else
        match s.boundary c x with
        | .ok y => s.setCtx c y
        | .error (.page p) => s.withPages c [(p, false)] fun s => s
        | .error (.fault f) => (s.noteFault c (s.atDispatch c f.cls f.sub 0 0 0 f.det0)).deliver c
    | _ => s)

/-- UNDEFINED_ENCODING_TRAP (R66, R367). -/
def execUndefinedEncodingTrap (c : Nat) (s : State) : Out :=
  .next (match s.nextDisp c with
    | .undefined b => (s.noteFault c (s.atDispatch c 0x01 0 b.op b.slot b.pos 0)).deliver c
    | _ => s)

/-- NO_MNOP (R243, R367): the fault discharges the condition. -/
def execNoMnop (c : Nat) (s : State) : Out :=
  .next (match s.nextDisp c with
    | .noMnop e =>
      let s := s.modCtx c fun x => match e with
        | .ma => { x with fmtA := { x.fmtA with owed := none } }
        | .mb => { x with fmtB := { x.fmtB with owed := none } }
      (s.noteFault c (s.atDispatch c 0x09 3 0x07 (if e = .ma then 3 else 4) 0 0)).deliver c
    | _ => s)

/-- BUDGET_OVERRUN (R50, R305, R367). -/
def execBudgetOverrun (c : Nat) (s : State) : Out :=
  .next (match s.nextDisp c with
    | .overrun => (s.noteFault c (s.atDispatch c 0x0A 0 0 0 0 0)).deliver c
    | _ => s)

end Sys2Proof.Machine
end

