-- ==== Sys2Proof/Machine/Access.lean ====
section
/-! DEFINITION. Accesses of S and V syllables to scratchpads and stores: the range scoreboard, POISON, pending bits, the
footprint of a speculative task and the effect buffer, exact-landing stores, and what a release waits for (R41, R47, R203, R213,
R214, R252, R315, R316). -/

namespace Sys2Proof.Machine

/-- The cores of a TMC mask: bit 8k + j names core j of cluster k of the die (R209). -/
def maskCores (d : Nat) (m : Word) : List Nat := ((List.range 64).filter fun i => m.getLsbD i).map (64 * d + ·)

/-- The ends of a move in scratchpads and stores, byte by byte; a multicast has one copy for each core (R209). -/
def Move.destBytes (m : Move) : List Nat :=
  match m.kind with
  | .tmc => (maskCores (dieOf m.ctx) m.mask).flatMap fun q => (endBytes m.dst).map fun o => spadPA q o
  | _ => endBytes m.dst

/-- The range of a move's end in the scratchpad of core q: lowest byte and the byte after the highest (R214). -/
def spanIn (q : Nat) (l : List Nat) : Option (Nat × Nat) :=
  match l.filter (inSpad q) with
  | [] => none
  | a :: as => some (as.foldl min a, as.foldl max a + 1)

/-- The ranges that a move holds in its own core's scratchpad (R214). -/
def Move.ranges (m : Move) : List (Nat × Nat) :=
  let q := coreOf m.ctx
  (spanIn q (endBytes m.src)).toList ++ (spanIn q m.destBytes).toList

/-- A move of a context in flight reads or writes one of these bytes of the scratchpads and stores (R213). -/
def Move.touches (m : Move) (as : List Nat) : Bool :=
  (endBytes m.src).any (fun b => inStore b && as.contains b) || m.destBytes.any fun b => as.contains b

/-- Some move in flight of the core of context c holds one of these bytes of its scratchpad, or an older one of the context one of
another scratchpad or store (R213, R214). -/
def State.held (s : State) (c : Nat) (as : List Nat) : Bool :=
  s.moves.any fun m => (coreOf m.ctx = coreOf c && m.ranges.any fun r => as.any fun a => r.1 ≤ a && a < r.2) || (m.ctx = c && m.touches as)

/-- Entries of a core's range scoreboard in use: one for each range (R214; log 4). -/
def State.scored (s : State) (q : Nat) : Nat :=
  s.moves.foldl (fun n m => if coreOf m.ctx = q then n + m.ranges.length else n) 0

/-- The number of the scratchpad or store that holds a byte: scratchpads, cluster stores, die stores. -/
def storeId (pa : Nat) : Nat :=
  if pa < clusterPA 0 0 then (pa - spadPA 0 0) / 2 ^ 22
  else if pa < diePA 0 0 then 128 + (pa - clusterPA 0 0) / 2 ^ 23
  else 144 + (pa - diePA 0 0) / 2 ^ 25

/-- The scratchpads and stores, other than the own core's, that bytes lie in: those a context's messages reach through the mesh (R404). -/
def storesOf (c : Nat) (l : List Nat) : List Nat := ((l.filter fun a => inStore a && !inSpad (coreOf c) a).map storeId).eraseDups

/-- An older message of a context to one of these stores has not been delivered (R404). -/
def State.undelivered (s : State) (c uid : Nat) (older : Nat → Nat → Bool) (st : List Nat) : Bool :=
  !st.isEmpty &&
    (s.moves.any (fun m => m.ctx = c && m.uid = uid && older m.entry m.id && (storesOf c m.destBytes).any st.contains) ||
      s.msends.any (fun m => m.ctx = c && m.uid = uid && older m.entry m.id && (storesOf c (endBytes m.dst)).any st.contains))

/-- A physical range lies in the footprint of a task on a core (R288, R315). -/
def inFootprint (t : TaskRec) (q : Nat) (a n : Nat) : Bool :=
  (footprint t).any fun r => spadPA q r.1 ≤ a && a + n ≤ spadPA q r.1 + r.2

/-- A physical range lies in the completion entries of a context (R210). -/
def inCompletion (c a n : Nat) : Bool :=
  spadPA (coreOf c) (complOff c 0) ≤ a && a + n ≤ spadPA (coreOf c) (complOff c 0) + 128

/-- Every byte lies in the footprint or, where they count, the completion entries of the context's task (R315). -/
def State.direct (s : State) (c : Nat) (compl : Bool) (as : List Nat) : Bool :=
  match (s.ctx c).task with
  | some t => as.all fun a => inFootprint t.trec (coreOf c) a 1 || (compl && inCompletion c a 1)
  | none => true

/-- Bytes that an effect occupies in the effect buffer: 64, plus its data rounded up to a multiple of 64 (R316). -/
def Effect.size : Effect → Nat
  | .underway _ _ => 0
  | .write _ b => 64 + (b.length + 63) / 64 * 64
  | .drain _ _ b => 64 + (b.length + 63) / 64 * 64
  | .stfl _ _ _ => 128
  | .arrive _ _ _ => 64
  | .move m => 64 + (m.es * m.n + 63) / 64 * 64
  | .msend _ => 128
  | .eos _ => 64

/-- The entry of the syllable that issued an effect. -/
def Effect.entry : Effect → Nat
  | .underway _ _ => 0
  | .write n _ => n
  | .drain n _ _ => n
  | .stfl n _ _ => n
  | .arrive n _ _ => n
  | .move m => m.entry
  | .msend m => m.entry
  | .eos m => m.entry

/-- What a list of effects occupies. -/
def effectsSize (l : List Effect) : Nat := l.foldl (fun n e => n + e.size) 0

/-- What a cluster's effect buffer holds: the effects of the running, saved and ended tasks that use it (R314, R316). -/
def State.bufferUse (s : State) (g : Nat) : Nat :=
  let running := s.ctxs.foldl (fun n e => if clusterOf e.1 = g then n + (match e.2.task with | some t => effectsSize t.effects | none => 0) else n) 0
  let saved := s.saved.foldl (fun n e => if clusterOf e.home = g then n + (match e.ctx.task with | some t => effectsSize t.effects | none => 0) else n) 0
  let ended := s.ended.foldl (fun n e => if clusterOf e.ctx = g then n + effectsSize e.task.effects else n) 0
  running + saved + ended

/-- Buffer an effect of the speculative task in issue, in program order, which is entry order (R251, R320); one that does not fit stalls until the task is not speculative, as a
block event (R316, R317). -/
def State.buffer (s : State) (e : Effect) (k : State → State) : State :=
  if s.bufferUse (clusterOf s.cur.ctx) + e.size ≤ 262144 then
    k (s.modCx fun x => { x with task := x.task.map fun t => { t with effects := insertBy Effect.entry e t.effects } })
  else s.block .speculation

/-- A word of a list of bytes is tagged POISON. -/
def State.poisoned (s : State) (as : List Nat) : Bool := as.any fun a => inStore a && tagAt s.tags a = tagPoison

/-- A read by a slot at its entry e of some 8-byte word finds its pending bit set (R43, R47). -/
def Ctx.wordPending (x : Ctx) (sl : Slot) (e : Nat) (as : List Nat) : Bool :=
  x.stores.any fun r => !r.landed && r.entry < e && x.reach r.slot ≤ r.land &&
    r.seen x.syncs sl e ≠ .new && r.bytes.any fun b => as.any fun a => a / 8 = b.1 / 8

/-- A read by a slot at its entry e waits for a scratchpad write of another slot that it sees and that has not landed (R43). -/
def Ctx.wordHeld (x : Ctx) (sl : Slot) (e : Nat) (as : List Nat) : Bool :=
  x.stores.any fun r => !r.landed && x.reach r.slot ≤ r.land && r.seen x.syncs sl e = .new && as.any fun a => (r.newAt a).isSome

/-- An S or V load of bytes in scratchpads and stores: a move that holds them stalls it (R213, R214), and a write of another slot that it
sees (R43); POISON and an uncorrectable error raise the data error without a destination (R203, R378); a pending word traps under CTL.PEND (R47); else the bytes that the slot sees. -/
def State.loadBytes (s : State) (ea : Word) (as : List Nat) (k : List Byte → State → State) : State :=
  if s.held s.cur.ctx as || s.cx.wordHeld s.cur.slot s.cur.entry as then s.stall
  else if s.poisoned as then s.raiseLate 0x20 2 ea
  else if s.struck.isSome then s.raiseStruck 1 ea (s.struck.getD true)
  else
    let go (s : State) : State :=
      let r := viewBytes s.cx s.cur.slot s.cur.entry s.mem as s.free
      k r.1 { s with free := r.2 }
    if s.cx.wordPending s.cur.slot s.cur.entry as then
      let p := s.readCsr csrCTL
      if ctlPend p.1 then p.2.raise (flt 0x10 0 0 0) else go p.2
    else go s

/-- An S or V store to the own-core window: it lands exactly at its landing entry (R41). -/
def State.storeOwn (s : State) (kind : StoreKind) (lat : Nat) (base mask : Word) (aux : Nat) (data offs : VReg)
    (bytes : List (Nat × Byte)) : State :=
  let e := s.cur.entry
  s.modCx fun x => { x with stores := x.stores ++ [⟨kind, s.cur.slot, e, lat, e + lat, base, mask, aux, data, offs, bytes, [], false⟩] }

/-- The homes that lie within the instance of a scope that holds a context (R248). -/
def inScope (scope c pa : Nat) : Bool :=
  let own := inSpad (coreOf c) pa
  let cluster := (spadPA (8 * clusterOf c) 0 ≤ pa && pa < spadPA (8 * clusterOf c + 8) 0) ||
    (clusterPA (clusterOf c) 0 ≤ pa && pa < clusterPA (clusterOf c + 1) 0)
  let die := (spadPA (64 * dieOf c) 0 ≤ pa && pa < spadPA (64 * dieOf c + 64) 0) ||
    (clusterPA (8 * dieOf c) 0 ≤ pa && pa < clusterPA (8 * dieOf c + 8) 0) || (diePA (dieOf c) 0 ≤ pa && pa < diePA (dieOf c + 1) 0)
  match scope with
  | 0 => true
  | 1 => own
  | 2 => cluster
  | 3 => die
  | 4 => inStore pa || inHbm pa
  | _ => true

/-- The smallest scope whose instance holds a context and a home in a scratchpad or store (R258). -/
def smallestScope (c pa : Nat) : Nat :=
  if inScope 1 c pa then 1 else if inScope 2 c pa then 2 else if inScope 3 c pa then 3 else 4

/-- An aperture has its home within a scope: this device's own in its HBM, another's only within the fabric (R248, R405). -/
def State.apertureIn (s : State) (scope dev : Nat) : Bool := scope = 6 || scope = 0 || (dev = s.fabId && 4 ≤ scope)

/-- A byte of an end has its home within a scope (R248). -/
def State.within (s : State) (scope c : Nat) : PByte → Bool
  | .at pa => inScope scope c pa
  | .virt _ (some pa) => inScope scope c pa
  | .virt _ none => 4 ≤ scope || scope = 0
  | .remote d _ => s.apertureIn scope d

/-- An operation of a context is older in entry order than entry n; in a handler, whose entries are of a count of their own, so is
every operation from before it (R252, R356). -/
def State.isOlder (s : State) (c n entry id : Nat) : Bool :=
  entry < n || (match (s.ctx c).saved with
    | some u => id < u.firstId
    | none => false)

/-- Every access of a context that a test names older, with its home in the instance of a scope that holds the context rep, has
been performed: moves, MSENDs and EOSs (R252, R261). Scratchpad writes that have not landed either stand in the slot in issue,
where R45 lands them, or land at the entry or later: a release issues when no other is left. -/
def State.performedBy (s : State) (scope c rep : Nat) (older : Nat → Nat → Bool) : Bool :=
  !(s.moves.any fun m => m.ctx = c && older m.entry m.id && (m.src.any (s.within scope rep) || m.dst.any (s.within scope rep) ||
      m.destBytes.any (inScope scope rep))) &&
    !(s.msends.any fun m => m.ctx = c && older m.entry m.id && m.dst.any (s.within scope rep)) &&
    !(s.eoss.any fun m => m.ctx = c && older m.entry m.id && m.dev.elim (4 ≤ scope || scope = 0) fun e => s.apertureIn scope e.1)

/-- The core's store replay queue is empty (R276). -/
def State.replayEmpty (s : State) (c : Nat) : Bool := (s.core (coreOf c)).replay.isEmpty

/-- A release of the instance of a scope that holds the context rep goes on once R252 holds; until then the syllable stalls. -/
def State.releaseFrom (s : State) (scope rep : Nat) (k : State → State) : State :=
  if s.performedBy scope s.cur.ctx rep (s.isOlder s.cur.ctx s.cur.entry) && s.replayEmpty s.cur.ctx then k s else s.stall

/-- A release at a scope instance that holds the context (R252). -/
def State.release (s : State) (scope : Nat) (k : State → State) : State := s.releaseFrom scope s.cur.ctx k

/-- A context that lies with a home in a scratchpad or store in every scope that holds the home. -/
def homeCtx (pa : Nat) : Nat :=
  if pa < clusterPA 0 0 then 4 * ((pa - spadPA 0 0) / 2 ^ 22)
  else if pa < diePA 0 0 then 32 * ((pa - clusterPA 0 0) / 2 ^ 23)
  else 256 * ((pa - diePA 0 0) / 2 ^ 25)

/-- Change the saved record of a task. -/
def State.modSaved (s : State) (uid : Nat) (f : SavedTask → SavedTask) : State :=
  { s with saved := updWhere (fun t => t.ctx.uid = uid) f s.saved }

/-- Set FST and ATTN flags for a task wherever it stands: in its context, or saved (R140, R142, R355). -/
def State.flagTask (s : State) (c uid : Nat) (fst attn : Word) : State :=
  if (s.ctx c).uid = uid then (s.setFst c fst).setAttn c attn
  else s.modSaved uid fun t => { t with ctx := (t.ctx.pokeCsr csrFST fst fst).pokeCsr csrATTN attn attn }

/-- Note an imprecise fault of a task wherever it stands (R359). -/
def State.faultTask (s : State) (c uid : Nat) (f : FaultInfo) : State :=
  if (s.ctx c).uid = uid then (s.noteFault c f).deliver c
  else s.modSaved uid fun t => if t.fault.isNone then { t with fault := some f } else t

/-- A syllable that a context has dispatched becomes the syllable in issue, and waits for nothing. -/
def State.atSyl (s : State) (c : Nat) (d : Disp) (q : Queued) : State :=
  { s.modCtx c fun x => x.mark d.entry q.slot fun _ => none with
    cur := ⟨c, q.slot, d.entry, d.pc, q.pos, ((encode q.syl.instr).getD 0).extractLsb' 21 6⟩ }

/-- The syllables of a context that wait for a reason, the oldest first. -/
def Ctx.waiting (x : Ctx) (b : Block) : List (Disp × Queued) :=
  x.queue.flatMap fun d => (d.left.filter fun q => q.blk = some b).map fun q => (d, q)

/-- The syllable of a slot at an entry stalls. -/
def Ctx.stalls (x : Ctx) (e : Nat) (sl : Slot) : Bool :=
  x.queue.any fun d => d.entry = e && d.left.any fun q => q.slot = sl && q.blk = some .stall

/-- A wake of a context in which a syllable waits for a reason: the oldest waiting syllable that can go on acts again (R33); one that would
stall waits on. f gives what a syllable does then, if the wake is for it. -/
def State.wake (s : State) (c : Nat) (b : Block) (f : Queued → Option (State → State)) : State :=
  (((s.ctx c).waiting b).findSome? fun w => (f w.2).bind fun op =>
    let t := op (s.atSyl c w.1 w.2)
    if (t.ctx c).queue = (s.ctx c).queue || (t.ctx c).stalls w.1.entry w.2.slot then none else some t).getD s

/-- The first wake of a list that changes what a context waits for. -/
def State.wakes (s : State) (c : Nat) (l : List (Block × (Queued → Option (State → State)))) : State :=
  (l.findSome? fun k =>
    let t := s.wake c k.1 k.2
    if (t.ctx c).queue = (s.ctx c).queue then none else some t).getD s

end Sys2Proof.Machine
end

