-- ==== Sys2Proof/Machine/Float.lean ====
section
/-! DEFINITION. Number formats and arithmetic: decoding, the one rounding and conversion of R106 and R107, exact sums and
products, the functions of R114, fx64, block scales and D8 weights (R93-R116). -/

namespace Sys2Proof.Machine

/-- The binary floating formats of R94. -/
inductive FF where
  | fp32 | fp16 | bf16 | e5m2 | e4m3 | e2m1
  deriving DecidableEq, Repr

/-- Exponent bits, fraction bits and bias (R94). -/
def FF.ebits : FF → Nat
  | .fp32 => 8 | .fp16 => 5 | .bf16 => 8 | .e5m2 => 5 | .e4m3 => 4 | .e2m1 => 2
def FF.fbits : FF → Nat
  | .fp32 => 23 | .fp16 => 10 | .bf16 => 7 | .e5m2 => 2 | .e4m3 => 3 | .e2m1 => 1
def FF.bias : FF → Nat
  | .fp32 => 127 | .fp16 => 15 | .bf16 => 127 | .e5m2 => 15 | .e4m3 => 7 | .e2m1 => 1

/-- The code of the largest finite value, without its sign (R94). -/
def FF.maxCode : FF → Nat
  | .fp32 => 0x7F7FFFFF | .fp16 => 0x7BFF | .bf16 => 0x7F7F | .e5m2 => 0x7B | .e4m3 => 0x7E | .e2m1 => 7

/-- The default NaN (R101); E2M1 has none and takes +0. -/
def FF.nan : FF → Nat
  | .fp32 => 0x7FC00000 | .fp16 => 0x7E00 | .bf16 => 0x7FC0 | .e5m2 => 0x7E | .e4m3 => 0x7F | .e2m1 => 0

/-- The weight of the sign bit. -/
def FF.signBit (f : FF) : Nat := 2 ^ (f.ebits + f.fbits)

/-- The exponent of the least quantum: a subnormal's unit in the last place. -/
def FF.quantum (f : FF) : Int := 1 - f.bias - f.fbits

/-- A decoded number: a NaN, signalling or not; an infinity; a finite value (-1)^neg * m * 2^e, whose zero keeps its sign. -/
inductive Num where
  | nan (signalling : Bool)
  | inf (neg : Bool)
  | fin (neg : Bool) (m : Nat) (e : Int)
  deriving DecidableEq, Repr

/-- Decode a code (R94, R95). -/
def FF.decode (f : FF) (x : Nat) : Num :=
  let neg := x.testBit (f.ebits + f.fbits)
  let ex := fld x f.fbits f.ebits
  let fr := fld x 0 f.fbits
  let value : Num := if ex = 0 then .fin neg fr f.quantum else .fin neg (2 ^ f.fbits + fr) (f.quantum + ex - 1)
  if ex + 1 = 2 ^ f.ebits then
    match f with
    | .e2m1 => value
    | .e4m3 => if fr = 7 then .nan false else value
    | .e5m2 => if fr = 0 then .inf neg else .nan false
    | _ => if fr = 0 then .inf neg else .nan (fr < 2 ^ (f.fbits - 1))
  else value

/-- The flush of narrow subnormal operands under CTL.FZN (R103). -/
def FF.flushes (f : FF) : Bool := f = .e4m3 || f = .e5m2

/-- Decode an operand after the flush of R103. -/
def FF.operand (f : FF) (fzn : Bool) (x : Nat) : Num :=
  match f.decode x with
  | .fin neg m e => if fzn && f.flushes && fld x f.fbits f.ebits = 0 then .fin neg 0 e else .fin neg m e
  | n => n

/-- What CTL gives an operation: rounding mode, saturation, narrow flush (R104, R105). -/
structure FEnv where
  rm  : BitVec 2
  sat : Bool
  fzn : Bool
  deriving DecidableEq, Repr

/-- The rounding of a magnitude up by one unit: remainder r of 2^sh under the kept k (R104). -/
def roundsUp (rm : BitVec 2) (neg : Bool) (k r sh : Nat) : Bool :=
  match rm.toNat with
  | 0 => 2 ^ sh < 2 * r || (2 * r = 2 ^ sh && k % 2 = 1)
  | 1 => false
  | 2 => !neg && 0 < r
  | _ => neg && 0 < r

/-- m * 2^(-sh) rounded to an integer, with whether it is inexact. -/
def roundShift (rm : BitVec 2) (neg : Bool) (m sh : Nat) : Nat × Bool :=
  let k := m / 2 ^ sh
  let r := m % 2 ^ sh
  (if roundsUp rm neg k r sh then k + 1 else k, r ≠ 0)

/-- Round of R106: the code of the rounded magnitude of m * 2^e, its exponent field unbounded above, and whether it is
inexact. -/
def FF.round (f : FF) (rm : BitVec 2) (neg : Bool) (m : Nat) (e : Int) : Nat × Bool :=
  if m = 0 then (0, false) else
    let d := ((Nat.log2 m : Int) + e - (f.quantum + f.fbits)).toNat
    let q := f.quantum + d
    if q ≤ e then (d * 2 ^ f.fbits + m * 2 ^ (e - q).toNat, false)
    else
      let r := roundShift rm neg m (q - e).toNat
      (d * 2 ^ f.fbits + r.1, r.2)

/-- A result: its bits and the flags it sets. -/
structure FRes where
  bits  : Nat
  flags : Word
  deriving DecidableEq, Repr

/-- A magnitude code with a sign. -/
def FF.signed (f : FF) (neg : Bool) (code : Nat) : Nat := if neg then f.signBit + code else code

/-- The infinity of a format, or what stands for it: E4M3's default NaN, E2M1's largest finite value (R107). -/
def FF.infinity (f : FF) (neg : Bool) : Nat :=
  match f with
  | .e4m3 => f.nan
  | .e2m1 => f.signed neg f.maxCode
  | _ => f.signed neg (2 ^ (f.ebits + f.fbits) - 2 ^ f.fbits)

/-- An overflow yields the infinity rather than the largest finite value (R107). -/
def overflowInf (rm : BitVec 2) (neg : Bool) : Bool :=
  match rm.toNat with
  | 0 => true
  | 1 => false
  | 2 => !neg
  | _ => neg

/-- Overflow of R107. -/
def FF.overflow (f : FF) (env : FEnv) (neg : Bool) : FRes :=
  if env.sat then ⟨f.signed neg f.maxCode, flagQSAT ||| flagNX⟩
  else ⟨if overflowInf env.rm neg then f.infinity neg else f.signed neg f.maxCode, flagOF ||| flagNX⟩

/-- Convert of R106 for a finite value. -/
def FF.convertFin (f : FF) (env : FEnv) (neg : Bool) (m : Nat) (e : Int) : FRes :=
  let q := f.round env.rm neg m e
  if f.maxCode < q.1 then f.overflow env neg
  else
    let tiny := q.1 < 2 ^ f.fbits
    let flags := (if tiny && q.2 then flagUF else 0) ||| (if q.2 then flagNX else 0)
    if f.flushes && env.fzn && tiny && 0 < q.1 then ⟨f.signed neg 0, flags ||| flagUF ||| flagNX⟩
    else ⟨f.signed neg q.1, flags⟩

/-- Convert of R106 and R107. -/
def FF.convert (f : FF) (env : FEnv) : Num → FRes
  | .nan _ => ⟨f.nan, if f = .e2m1 then flagNV else 0⟩
  | .inf neg =>
    match f with
    | .e4m3 | .e2m1 => if env.sat then ⟨f.signed neg f.maxCode, flagQSAT⟩ else ⟨f.infinity neg, flagOF⟩
    | _ => ⟨f.infinity neg, 0⟩
  | .fin neg m e => f.convertFin env neg m e

/-- NV for a signalling NaN (R101). -/
def Num.sig : Num → Word
  | .nan true => flagNV
  | _ => 0

/-- A NaN. -/
def Num.isNan : Num → Bool
  | .nan _ => true
  | _ => false

/-- The sign of a number that is not a NaN. -/
def Num.neg : Num → Bool
  | .nan _ => false
  | .inf n => n
  | .fin n _ _ => n

/-- The opposite number. -/
def Num.negate : Num → Num
  | .nan b => .nan b
  | .inf n => .inf (!n)
  | .fin n m e => .fin (!n) m e

/-- An exact value n * 2^e. -/
structure Dy where
  n : Int
  e : Int
  deriving DecidableEq, Repr

/-- Exact sum and product. -/
def Dy.add (a b : Dy) : Dy :=
  let e := min a.e b.e
  ⟨a.n * 2 ^ (a.e - e).toNat + b.n * 2 ^ (b.e - e).toNat, e⟩
def Dy.mul (a b : Dy) : Dy := ⟨a.n * b.n, a.e + b.e⟩
def Dy.negate (a : Dy) : Dy := ⟨-a.n, a.e⟩

/-- The exact value of a finite number. -/
def dyOf (neg : Bool) (m : Nat) (e : Int) : Dy := ⟨if neg then -(m : Int) else m, e⟩

/-- An exact value as a number; an exact zero takes the sign given. -/
def Dy.num (zeroNeg : Bool) (d : Dy) : Num := if d.n = 0 then .fin zeroNeg 0 d.e else .fin (d.n < 0) d.n.natAbs d.e

/-- The exact sum of two numbers, before its one rounding. An exact zero is +0, or -0 under RDN; two zeros of one sign keep
it (R94, R168; log 12). The flags say that the sum creates a NaN. -/
def Num.add (rm : BitVec 2) (a b : Num) : Num × Word :=
  match a, b with
  | .nan _, _ => (.nan false, 0)
  | _, .nan _ => (.nan false, 0)
  | .inf x, .inf y => if x = y then (.inf x, 0) else (.nan false, flagNV)
  | .inf x, _ => (.inf x, 0)
  | _, .inf y => (.inf y, 0)
  | .fin x m e, .fin y n f =>
    (((dyOf x m e).add (dyOf y n f)).num (if m = 0 && n = 0 && x = y then x else rm = 3), 0)

/-- The exact product of two numbers. A D8 weight enters with its decoded value (R110), so an infinity times it is an infinity, also
where the weight's two terms differ in sign (DESIGN CHOICE, log 90). -/
def Num.mul (a b : Num) : Num × Word :=
  match a, b with
  | .nan _, _ => (.nan false, 0)
  | _, .nan _ => (.nan false, 0)
  | .inf x, .fin y n _ => if n = 0 then (.nan false, flagNV) else (.inf (x != y), 0)
  | .fin x m _, .inf y => if m = 0 then (.nan false, flagNV) else (.inf (x != y), 0)
  | .inf x, .inf y => (.inf (x != y), 0)
  | .fin x m e, .fin y n f => (.fin (x != y) (m * n) (e + f), 0)

/-- An FP32 operand. -/
def f32 (x : Half) : Num := FF.fp32.decode x.toNat

/-- The FP32 conversion with flags found before it. -/
def toF32 (env : FEnv) (n : Num) (flags : Word) : FRes :=
  let r := FF.fp32.convert env n
  ⟨r.bits, r.flags ||| flags⟩

/-- VADD, VSUB, VMUL and VFMA of R168 in FP32: the exact result converted once. -/
def fAdd (env : FEnv) (a b : Num) : FRes :=
  let r := Num.add env.rm a b
  toF32 env r.1 (a.sig ||| b.sig ||| r.2)
def fSub (env : FEnv) (a b : Num) : FRes := fAdd env a b.negate
def fMul (env : FEnv) (a b : Num) : FRes :=
  let r := Num.mul a b
  toF32 env r.1 (a.sig ||| b.sig ||| r.2)
def fFma (env : FEnv) (d a b : Num) : FRes :=
  let p := Num.mul a b
  let r := Num.add env.rm d p.1
  toF32 env r.1 (a.sig ||| b.sig ||| d.sig ||| p.2 ||| r.2)

/-- The order of FP32 codes: -infinity below -0 below +0 below +infinity below every NaN, all NaNs equal (R168, R174). -/
def f32Key (x : Half) : Nat :=
  if (f32 x).isNan then 2 ^ 32
  else if x.getLsbD 31 then 2 ^ 31 - 1 - fld x.toNat 0 31 else 2 ^ 31 + fld x.toNat 0 31

/-- VMIN and VMAX in FP32; other takes a single NaN's partner (R168). -/
def fMinMax (isMax other : Bool) (a b : Half) : FRes :=
  let na := (f32 a).isNan
  let nb := (f32 b).isNan
  let flags := (f32 a).sig ||| (f32 b).sig
  if na || nb then
    if other && !nb then ⟨b.toNat, flags⟩
    else if other && !na then ⟨a.toNat, flags⟩
    else ⟨FF.fp32.nan, flags⟩
  else if isMax then ⟨if f32Key a < f32Key b then b.toNat else a.toNat, flags⟩
  else ⟨if f32Key b < f32Key a then b.toNat else a.toNat, flags⟩

/-- VABS and VNEG in FP32 (R168). -/
def fSign (f : Half → Half) (a : Half) : FRes := if (f32 a).isNan then ⟨FF.fp32.nan, (f32 a).sig⟩ else ⟨(f a).toNat, 0⟩

/-- The numeric order of two FP32 operands that are not NaNs; -0 equals +0 (R170). -/
def fLt (a b : Half) : Bool := f32Key a < f32Key b && !(fld a.toNat 0 31 = 0 && fld b.toNat 0 31 = 0)
def fEq (a b : Half) : Bool := a = b || (fld a.toNat 0 31 = 0 && fld b.toNat 0 31 = 0)

/-- VCMP's FP32 conditions: eq, lt, uo and le with their flags (R170). -/
def fCmp (t : BitVec 2) (c : BitVec 1) (a b : Half) : Bool × Word :=
  let nan := (f32 a).isNan || (f32 b).isNan
  let sig := (f32 a).sig ||| (f32 b).sig
  let any := if nan then flagNV else 0
  match t.toNat, c.toNat with
  | 0, 0 => (!nan && fEq a b, sig)
  | 0, _ => (!nan && fLt a b, any)
  | _, 0 => (nan, sig)
  | _, _ => (!nan && (fLt a b || fEq a b), any)

/-- A finite value rounded to an integer: magnitude and whether it is inexact. -/
def roundInt (rm : BitVec 2) (neg : Bool) (m : Nat) (e : Int) : Nat × Bool :=
  if 0 ≤ e then (m * 2 ^ e.toNat, false) else roundShift rm neg m (-e).toNat

/-- Float to integer of w bits (R107). -/
def toInt (env : FEnv) (w : Nat) (signed : Bool) (n : Num) : FRes :=
  let lo : Int := if signed then -(2 ^ (w - 1)) else 0
  let hi : Int := if signed then 2 ^ (w - 1) - 1 else 2 ^ w - 1
  let bits (x : Int) : Nat := (BitVec.ofInt w x).toNat
  let out (neg : Bool) : FRes := if env.sat then ⟨bits (if neg then lo else hi), flagQSAT⟩ else ⟨bits lo, flagNV⟩
  match n with
  | .nan _ => ⟨if env.sat then 0 else bits lo, flagNV⟩
  | .inf neg => out neg
  | .fin neg m e =>
    let r := roundInt env.rm neg m e
    let x : Int := if neg then -(r.1 : Int) else r.1
    if x < lo || hi < x then out neg else ⟨bits x, if r.2 then flagNX else 0⟩

/-- Integer to a narrower integer (R107). -/
def narrowInt (sat : Bool) (w : Nat) (signed : Bool) (x : Int) : Int × Word :=
  let lo : Int := if signed then -(2 ^ (w - 1)) else 0
  let hi : Int := if signed then 2 ^ (w - 1) - 1 else 2 ^ w - 1
  if sat then (if x < lo then (lo, flagQSAT) else if hi < x then (hi, flagQSAT) else (x, 0))
  else (if signed then (BitVec.ofInt w x).toInt else (BitVec.ofInt w x).toNat, 0)

/-- An integer as a number; zero is +0. -/
def intNum (x : Int) : Num := .fin (x < 0) x.natAbs 0

/-- A floating value to fx64 with scale exponent sc (R98). -/
def toFx (sc : Int) (n : Num) : Word × Word :=
  let clamp (x : Int) : Word × Word :=
    if x < -(2 ^ 63) then (BitVec.ofInt 64 (-(2 ^ 63)), flagOF)
    else if 2 ^ 63 - 1 < x then (BitVec.ofInt 64 (2 ^ 63 - 1), flagOF)
    else (BitVec.ofInt 64 x, 0)
  match n with
  | .nan _ => (0, flagNV)
  | .inf true => clamp (-(2 ^ 64))
  | .inf false => clamp (2 ^ 64)
  | .fin neg m e =>
    let x : Int := (dyOf neg m e).n
    let k := e - sc
    clamp (if 0 ≤ k then x * 2 ^ k.toNat else x / 2 ^ (-k).toNat)

/-- An fx64 word with scale exponent sc as a number (R98). -/
def fxNum (sc : Int) (n : Word) : Num := .fin (n.toInt < 0) n.toInt.natAbs sc

/-- A value scaled by 2^k. -/
def Num.scale (k : Int) : Num → Num
  | .fin n m e => .fin n m (e + k)
  | n => n

/-- A block scale applied to an element: code 0xFF makes it NaN (R96, R109). -/
def Num.block (c : Nat) (n : Num) : Num := if c = 0xFF then .nan false else n.scale (c - 127)

/-- The exact value of a D8 code, a multiple of 2^-6 (R97). -/
def d8Num (x : Nat) : Num :=
  let term (s k : Nat) : Int := if k = 7 then 0 else if s = 1 then -(2 ^ (6 - k)) else 2 ^ (6 - k)
  let v := term (fld x 7 1) (fld x 4 3) + term (fld x 3 1) (fld x 0 3)
  .fin (v < 0) v.natAbs (-6)

/-- The working precision of R114's roots and quotients, and the first one of its irrational functions, in bits. -/
def fnBits : Nat := 128

/-- A value known to lie strictly between n * 2^e and (n + w) * 2^e, in size. -/
structure Enclosure where
  neg : Bool
  n : Nat
  w : Nat
  e : Int
  deriving DecidableEq, Repr

/-- An enclosure's two ends, a little inside, rounded under the mode in effect (R106). -/
def Enclosure.ends (env : FEnv) (i : Enclosure) : FRes × FRes :=
  (FF.fp32.convertFin env i.neg (2 * i.n + 1) (i.e - 1), FF.fp32.convertFin env i.neg (2 * (i.n + i.w) - 1) (i.e - 1))

/-- The exact irrational value rounded once (R114): where both ends of its enclosure round alike, so does every value between
them; else the enclosure is taken at twice the precision. An irrational value is no rounding boundary, so some precision decides. -/
def roundReal (env : FEnv) (encl : Nat → Enclosure) : Nat → Nat → FRes
  | 0, p => ((encl p).ends env).1
  | k + 1, p => let r := (encl p).ends env; if r.1 = r.2 then r.1 else roundReal env encl k (2 * p)

/-- The irrational value rounded, from the first precision on. -/
def irrational (env : FEnv) (encl : Nat → Enclosure) : FRes := roundReal env encl 8 fnBits

/-- Terms of the exponential series from the k-th on, rounded down, in units of 2^-p. -/
def expSeries (p y : Nat) : Nat → Nat → Nat → Nat
  | 0, _, _ => 0
  | n + 1, k, t => t + expSeries p y n (k + 1) (t * y / (k * 2 ^ p))

/-- Odd powers of z over their exponents from 2k + 1 on, rounded down, in units of 2^-p: z2 is the square of z. -/
def atanhSeries (p z2 : Nat) : Nat → Nat → Nat → Nat
  | 0, _, _ => 0
  | n + 1, k, t => t / (2 * k + 1) + atanhSeries p z2 n (k + 1) (t * z2 / 2 ^ p)

/-- ln 2 in units of 2^-p, at most 4p too small: 2 atanh(1/3). -/
def ln2Fix (p : Nat) : Nat := 2 * atanhSeries p (2 ^ p / 9) (p / 2) 0 (2 ^ p / 3)

/-- 2^x enclosed at p bits, for a finite x that is no integer: the integer part scales, the fraction goes through the exponential
series. -/
def exp2Encl (neg : Bool) (m : Nat) (e : Int) (p : Nat) : Enclosure :=
  let num : Int := (dyOf neg m e).n * 2 ^ p
  let fix : Int := if 0 ≤ e then num * 2 ^ e.toNat else num / 2 ^ (-e).toNat
  let fr := (fix % 2 ^ p).toNat
  ⟨false, expSeries p (fr * ln2Fix p / 2 ^ p) (p / 2) 1 (2 ^ p), 16 * p, fix / 2 ^ p - p⟩

/-- VEXP2 (R114). -/
def fExp2 (env : FEnv) (a : Num) : FRes :=
  match a with
  | .nan _ => ⟨FF.fp32.nan, a.sig⟩
  | .inf neg => if neg then ⟨0, 0⟩ else ⟨FF.fp32.infinity false, 0⟩
  | .fin neg m e =>
    if m = 0 then ⟨0x3F800000, 0⟩
    else if 10 ≤ (Nat.log2 m : Int) + e then FF.fp32.convertFin env false 1 (if neg then -1000 else 1000)
    else if 0 ≤ e || m % 2 ^ (-e).toNat = 0 then
      let k : Nat := if 0 ≤ e then m * 2 ^ e.toNat else m / 2 ^ (-e).toNat
      FF.fp32.convertFin env false 1 (if neg then -(k : Int) else k)
    else if (Nat.log2 m : Int) + e < -64 then irrational env fun p => ⟨false, if neg then 2 ^ p - 2 ^ (p - 64) else 2 ^ p, 2 ^ (p - 64), -(p : Int)⟩
    else irrational env (exp2Encl neg m e)

/-- log2 of m * 2^e, not a power of two, enclosed at p bits: the exponent plus 2 atanh((t - 1)/(t + 1)) / ln 2 of the fraction
t. -/
def log2Encl (m : Nat) (e : Int) (p : Nat) : Enclosure :=
  let l := Nat.log2 m
  let k : Int := l + e
  let z := (m - 2 ^ l) * 2 ^ p / (m + 2 ^ l)
  let a := atanhSeries p (z * z / 2 ^ p) (p / 2) 0 z
  let lo := 2 * a * 2 ^ p / (ln2Fix p + 4 * p)
  let hi := (2 * a + 4 * p) * 2 ^ p / ln2Fix p + 1
  let x : Int := k * 2 ^ p + lo
  if 0 ≤ x then ⟨false, x.toNat, hi - lo, -(p : Int)⟩ else ⟨true, (-(k * 2 ^ p + hi)).toNat, hi - lo, -(p : Int)⟩

/-- VLOG2 (R114). -/
def fLog2 (env : FEnv) (a : Num) : FRes :=
  match a with
  | .nan _ => ⟨FF.fp32.nan, a.sig⟩
  | .inf neg => if neg then ⟨FF.fp32.nan, flagNV⟩ else ⟨FF.fp32.infinity false, 0⟩
  | .fin neg m e =>
    if m = 0 then ⟨FF.fp32.infinity true, 0⟩
    else if neg then ⟨FF.fp32.nan, flagNV⟩
    else if m = 2 ^ Nat.log2 m then FF.fp32.convert env (intNum ((Nat.log2 m : Int) + e))
    else irrational env (log2Encl m e)

/-- A positive rational or root with its remainder folded into a last bit, which rounds as the exact value does. -/
def sticky (q : Nat) (exact : Bool) : Nat := 2 * q + (if exact then 0 else 1)

/-- VRCP (R114). -/
def fRcp (env : FEnv) (a : Num) : FRes :=
  match a with
  | .nan _ => ⟨FF.fp32.nan, a.sig⟩
  | .inf neg => ⟨FF.fp32.signed neg 0, 0⟩
  | .fin neg m e =>
    if m = 0 then ⟨FF.fp32.infinity neg, 0⟩
    else FF.fp32.convertFin env neg (sticky (2 ^ fnBits / m) (2 ^ fnBits % m = 0)) (-(fnBits : Int) - e - 1)

/-- The root of n rounded down, from its highest bit down. -/
def isqrt (n : Nat) : Nat → Nat → Nat
  | 0, r => r
  | k + 1, r => if (r + 2 ^ k) * (r + 2 ^ k) ≤ n then isqrt n k (r + 2 ^ k) else isqrt n k r

/-- VRSQ (R114). -/
def fRsq (env : FEnv) (a : Num) : FRes :=
  match a with
  | .nan _ => ⟨FF.fp32.nan, a.sig⟩
  | .inf neg => if neg then ⟨FF.fp32.nan, flagNV⟩ else ⟨0, 0⟩
  | .fin neg m e =>
    if m = 0 then ⟨FF.fp32.infinity neg, 0⟩
    else if neg then ⟨FF.fp32.nan, flagNV⟩
    else
      let odd := e % 2 = 1
      let m := if odd then 2 * m else m
      let e := if odd then e - 1 else e
      let q := 2 ^ (2 * fnBits) / m
      let r := isqrt q (fnBits + 1) 0
      FF.fp32.convertFin env false (sticky r (r * r * m = 2 ^ (2 * fnBits))) (-(fnBits : Int) - e / 2 - 1)

/-- VTWOSUM (R177): the RNE sum and its exact error. -/
def twoSum (a b : Num) (env : FEnv) : FRes × Nat :=
  let s := fAdd { env with rm := 0 } a b
  match FF.fp32.decode s.bits, a, b with
  | .fin n m e, .fin x p g, .fin y q h =>
    let d := ((dyOf x p g).add (dyOf y q h)).add (dyOf n m e).negate
    (s, (FF.fp32.convert ⟨0, false, false⟩ (d.num false)).bits)
  | _, _, _ => (s, 0)

end Sys2Proof.Machine
end

