-- ==== Sys2Proof/Machine/Objects.lean ====
section
/-! DEFINITION. Objects as accesses meet them: the object at a physical number, segments and their roles, Fold updates, Flow
streams, and the destruction point (R187-R206, R269-R272, R346). -/

namespace Sys2Proof.Machine

/-- The LIVE object that holds a physical number of HBM: die, slot and entry (R188). -/
def State.findObj (s : State) (pa : Nat) : Option (Nat × Nat × Obj) :=
  s.dies.findSome? fun d =>
    (d.2.objs.find? fun e => e.2.live && hbmPA e.2.base ≤ pa && pa < hbmPA (e.2.base + e.2.len)).map fun e => (d.1, e.1, e.2)

/-- Segments with their start offsets (R187). -/
def segSpans : Nat → List Seg → List (Nat × Seg)
  | _, [] => []
  | a, g :: gs => (a, g) :: segSpans g.stop gs

/-- The segments that a range touches. -/
def Obj.segsIn (o : Obj) (a n : Nat) : List (Nat × Seg) := (segSpans 0 o.segs).filter fun g => g.1 < a + n && a < g.2.stop

/-- The segment that holds an offset. -/
def Obj.segAt (o : Obj) (a : Nat) : Option Seg := (o.segsIn a 1).head?.map (·.2)

/-- What an end does with the bytes of an object (R194). -/
inductive Use where
  | read | write | flowRead | flowWrite | fold
  deriving DecidableEq, Repr

/-- A Flow role, and a Fold role. -/
def Role.isFlow : Role → Bool
  | .flow _ => true
  | _ => false
def Role.isFold : Role → Bool
  | .fold _ _ => true
  | _ => false

/-- The role check of one segment: none when it passes, else the sub-cause (R190-R194). -/
def Seg.refuses (g : Seg) (u : Use) (uid : Nat) : Option (BitVec 8) :=
  match g.role, u with
  | .fixed, .read => none
  | .own, .read => if g.owner = some uid then none else some 2
  | .own, .write => if g.owner = some uid then none else some 2
  | .flow _, .flowRead => none
  | .flow _, .flowWrite => none
  | .fold _ _, .fold => none
  | _, _ => some 0

/-- The address of the first byte of an object that a fault names: BASE plus the offset (R366; log 13). -/
def Obj.addr (o : Obj) (off : Int) : Word := BitVec.ofInt 64 ((o.base : Int) + off)

/-- The bounds and role check of a range (R194, R207); h is the handle of a handle end. -/
def Obj.check (o : Obj) (u : Use) (uid : Nat) (off : Int) (n : Nat) (h : Word) : Except Flt Unit :=
  if off < 0 then .error (flt 0x03 2 (o.addr off) h)
  else if (o.len : Int) < off + n then .error (flt 0x03 2 (o.addr (max off o.len)) h)
  else
    match (o.segsIn off.toNat n).find? fun g => (g.2.refuses u uid).isSome with
    | none => .ok ()
    | some g => .error (roleFlt ((g.2.refuses u uid).getD 0) (o.addr (max off g.1)) h)

/-- A range meets a range that a RECAST has closed (R199). -/
def Obj.isClosed (o : Obj) (a n : Nat) : Bool := o.closed.any fun c => c.1 < a + n && a < c.1 + c.2.1

/-- Bytes of the word that a Fold operation updates, and of its input (R192, R206). -/
def foldWord (op : Nat) : Nat := if op = 0 || op = 2 || op = 3 || op = 4 || op = 6 || op = 8 then 4 else 8
def foldInput (op : Nat) : Nat := if op = 10 then 4 else foldWord op

/-- One Fold update of a word by an input, with the FST flags it sets (R98, R192). -/
def foldStep (op : Nat) (scale : BitVec 8) (w x : Word) : Word × Word :=
  let w4 : Half := w.setWidth 32
  let x4 : Half := x.setWidth 32
  let f (isMax : Bool) : Word × Word :=
    let r := fMinMax isMax false w4 x4
    (BitVec.ofNat 64 r.bits, (f32 x4).sig)
  match op with
  | 0 => ((w4 + x4).setWidth 64, 0)
  | 1 => (w + x, 0)
  | 2 => f false
  | 3 => f true
  | 4 => (w ||| x, 0)
  | 5 => (w ||| x, 0)
  | 6 => (w &&& x, 0)
  | 7 => (w &&& x, 0)
  | 8 => (w ^^^ x, 0)
  | 9 => (w ^^^ x, 0)
  | _ =>
    let r := toFx scale.toInt (f32 x4)
    (w + r.1, r.2)

/-- Apply a Fold update at a physical number; the flags come back. -/
def State.foldAt (s : State) (pa op : Nat) (scale : BitVec 8) (x : Word) : State × Word :=
  let n := foldWord op
  let r := foldStep op scale (BitVec.ofNat 64 (readNat s.mem pa n)) x
  ({ s with mem := writeNat s.mem pa n r.1.toNat }, r.2)

/-- The element size of an object's Flow, and where its Flow segments begin and end (R191). -/
def Obj.flowSize (o : Obj) : Nat := (o.segs.findSome? fun g => match g.role with | .flow e => some e | _ => none).getD 1
def Obj.flowStart (o : Obj) : Nat := ((segSpans 0 o.segs).find? fun g => g.2.role.isFlow).elim 0 (·.1)
def Obj.flowStop (o : Obj) : Nat := (((segSpans 0 o.segs).filter fun g => g.2.role.isFlow).getLast?).elim 0 (·.2.stop)

/-- Change the stream of an object. -/
def State.modStream (s : State) (d slot : Nat) (f : Stream → Stream) : State :=
  s.modObj d slot fun o => { o with stream := o.stream.map f }

/-- P moves past every range that is written, in reservation order (R205). -/
def Stream.advance : Nat → Stream → Stream
  | 0, t => t
  | n + 1, t =>
    match t.done.find? fun r => r.1 = t.p with
    | some r => Stream.advance n { t with p := t.p + r.2, done := t.done.filter fun q => q ≠ r }
    | none => t

/-- A reserved range has been written (R205). -/
def Stream.publish (t : Stream) (off n : Nat) : Stream :=
  if n = 0 then t else Stream.advance (t.done.length + 1) { t with done := t.done ++ [(off, n)] }

/-- A task's producer slot, bound or free (R269). -/
def Stream.canBind (t : Stream) (uid : Nat) : Bool := t.prods.any (fun p => p.1 = uid) || t.prods.length < t.n
def Stream.bind (t : Stream) (uid : Nat) : Stream :=
  if t.prods.any fun p => p.1 = uid then t else { t with prods := t.prods ++ [(uid, false)] }

/-- A task's token has arrived. -/
def Stream.tokenIn (t : Stream) (uid : Nat) : Bool := t.prods.any fun p => p.1 = uid && p.2

/-- What a TSTF of n bytes at offset a finds at the stream (R205, R269-R271): a fault's sub-cause, nothing to write, or the
offset reserved. -/
inductive Reserve where
  | refused (sub : BitVec 8)
  | dropped
  | at (off : Nat)
  deriving DecidableEq, Repr

/-- The cursor, producer and capacity checks of a TSTF (R205, R269-R271). -/
def Obj.reserve (o : Obj) (t : Stream) (uid a n : Nat) : Reserve :=
  if t.append then
    if t.tokenIn uid then .dropped
    else if !t.canBind uid then .refused 11
    else if o.flowStop < t.pr + n then .refused 10
    else .at t.pr
  else if a ≠ t.pr then .refused 9
  else if o.flowStop < a + n then .refused 10
  else .at a

/-- The reservation made (R205, R270). -/
def Stream.take (t : Stream) (uid off n : Nat) : Stream := { (if t.append then t.bind uid else t) with pr := off + n }

/-- How many of the n elements' bytes at offset a a TLDF can read now: none while it waits for publication (R204, R272). -/
def Stream.ready (t : Stream) (a n : Nat) : Option Nat :=
  if a + n ≤ t.p then some n
  else
    match t.final with
    | some f => if f < a + n && f ≤ t.p then some (f - a) else none
    | none => none

/-- The consumer cursor after a claim of n bytes at a: past the end of an ended stream it stands at the final P (R204, R272). -/
def Stream.claim (t : Stream) (a n : Nat) : Stream := { t with c := match t.final with
  | some f => min (a + n) f
  | none => a + n }

/-- A token of a task reaches a stream (R271); the flag says that it was the task's second. -/
def Stream.token (t : Stream) (uid : Nat) : Stream × Bool :=
  if t.tokenIn uid then ({ t with d := t.d + 1 }, true)
  else
    let t := { t with prods := updWhere (fun p => p.1 = uid) (fun p => (p.1, true)) t.prods, e := t.e + 1 }
    (if t.e = t.n then { t with final := some t.pr } else t, false)

/-- A TLDF in flight can complete: its elements are published, its stream has ended, or its object is gone or broken (R204, R272,
R274, R346). -/
def State.flowReady (s : State) (m : Move) : Bool :=
  match m.kind, m.flow with
  | .tldf, some f =>
    m.gone || m.quiet ||
    (match s.obj f.die f.slot with
    | some o => !o.live || o.brk || (match o.stream with
      | some t => (t.ready f.off f.len).isSome
      | none => true)
    | none => true)
  | _, _ => true

/-- Answer a request from the fabric: its cause as a completion word has it, and its bytes (R196, R210). -/
def State.reply (s : State) (req : FabricReq) (cause : BitVec 8) (bytes : List Byte) : State :=
  { s with out := s.out ++ [Msg.fabricReply req.source cause bytes], evTurn := true }

/-- A TLDF of another device's task can be answered: its elements are published, its stream has ended, its object is broken or gone. -/
def State.reqReady (s : State) (h : HeldReq) : Bool :=
  match s.obj h.die h.slot with
  | some o => o.gen ≠ h.gen || o.brk || (o.stream.elim true fun t => (t.ready h.off h.n).isSome)
  | none => true

/-- It is answered: with its elements; those below the end of an ended stream; nothing from a broken object; or as gone (R204, R272,
R274, R346). -/
def State.answerReq (s : State) (h : HeldReq) : State :=
  let s := { s with requests := s.requests.filter fun r => r ≠ h }
  match s.obj h.die h.slot with
  | none => s.reply h.req 6 []
  | some o =>
    if o.gen ≠ h.gen then s.reply h.req 6 []
    else if o.brk then s.reply h.req 0 []
    else
      match o.stream.bind fun t => t.ready h.off h.n with
      | none => s.reply h.req 6 []
      | some k =>
        (if k = h.n then s else s.modStream h.die h.slot fun t => { t with c := t.final.getD t.c }).reply h.req 0
          (readBytes s.mem (hbmPA (o.base + h.off)) k)

/-- The destruction point of an object (R346): its generation moves on, it is DESTROYING, and every TLDF that waits on it, of a task here
or of another device's, is gone; one whose elements are published completes with them, and one on an object that has become BROKEN as on
a broken object (R274, R275). -/
def State.destroy (s : State) (d slot : Nat) : State :=
  let claims (m : Move) : Bool := m.kind = .tldf && m.flow.any fun f => f.die = d && f.slot = slot
  let brk := (s.obj d slot).any (·.brk)
  let moves : List Move :=
    if brk then updWhere claims (fun m => { m with broken := true }) s.moves
    else updWhere (fun m => claims m && !s.flowReady m) (fun m => { m with gone := true }) s.moves
  let s := { s with moves := moves }
  let s := (s.requests.filter fun h => h.die = d && h.slot = slot).foldl State.answerReq s
  s.modObj d slot fun o => { o with gen := o.gen + 1, live := false, brk := false }

/-- The entry of the export table that n bytes at an aperture offset use (R407): die, slot, object offset and object; none is the role
violation of R196. perm is the bit of PERM that the access needs. -/
def State.entryAt (s : State) (key : BitVec 32) (perm off n : Nat) : Option (Nat × Nat × Nat × Obj) :=
  match s.exports.find? fun e => e.2.start ≤ off && off < e.2.start + e.2.len with
  | none => none
  | some (_, e) =>
    match s.obj e.die e.slot with
    | none => none
    | some o =>
      if e.key = key && off + n ≤ e.start + e.len && e.perm.getLsbD perm && o.live && o.gen = e.gen then
        some (e.die, e.slot, off - e.start + e.off, o)
      else none

/-- What an access of n bytes at an aperture offset meets at this device (R196, R199, R407): a violation, a range that a RECAST has
closed, or a place: die, slot and object offset, whether the object is broken, and for a Fold its operation and scale. -/
inductive AtHome where
  | bad
  | held
  | at (die slot off : Nat) (broken : Bool) (fold : Nat × BitVec 8)
  deriving DecidableEq, Repr

/-- An access other than a Fold update. -/
def State.atEntry (s : State) (key : BitVec 32) (perm : Nat) (u : Use) (uid off n : Nat) : AtHome :=
  match s.entryAt key perm off n with
  | none => .bad
  | some (d, slot, a, o) =>
    if o.isClosed a n then .held
    else
      match o.check u uid a n 0 with
      | .ok _ => .at d slot a o.brk (0, 0)
      | .error _ => .bad

/-- A Fold update, of an input of a given size (R194, R206). -/
def State.atFold (s : State) (key : BitVec 32) (uid off es : Nat) : AtHome :=
  match s.entryAt key 2 off 1 with
  | none => .bad
  | some (d, slot, a, o) =>
    if o.isClosed a 1 then .held
    else
      match (o.segAt a).map Seg.role with
      | some (.fold op sc) =>
        let n := foldWord op
        if (s.entryAt key 2 off n).isSome && a % n = 0 && es = foldInput op && (o.check .fold uid a n 0 matches .ok _) then
          .at d slot a o.brk (op, sc)
        else .bad
      | _ => .bad

/-- The fabric key of a PASID (R405). -/
def State.fkey (s : State) (pasid : BitVec 20) : BitVec 32 := Sparse.get 0 s.fkeys pasid.toNat

/-- The declared reduction window that holds an address of another device's aperture (R408). -/
def State.redwin (s : State) (dev off : Nat) : Option RedWin :=
  (s.redwins.find? fun w => w.2.home = dev && w.2.start ≤ off && off < w.2.start + w.2.len).map (·.2)

end Sys2Proof.Machine
end

