-- ==== Sys2Proof/Machine/Ends.lean ====
section
/-! DEFINITION. The ends of tile moves: addresses, windows, handles, translations and role checks (R55-R59, R194, R207-R210,
R223, R224, R332, R398). -/

namespace Sys2Proof.Machine

/-- Why an end is not ready: a precise fault, a range that a RECAST has closed, or pages to translate. -/
inductive XStop where
  | fault (f : Flt)
  | hold
  | pages (l : List (Nat × Bool))
  deriving DecidableEq, Repr

/-- A footprint (R207): element size, count, base, terms without base, Λ. -/
structure Foot where
  es    : Nat
  n     : Nat
  n0    : Nat
  base  : Int
  terms : List Int
  lam   : Int
  deriving DecidableEq, Repr

/-- The footprint of a shape register for a syllable with guard g, the elements' terms in order. -/
def State.foot (s : State) (g : BitVec 4) (v : ShapeBits) (es : Nat) : Foot :=
  ⟨es, shCount v, shBound v 0, (shBase v).toInt, (List.range (shCount v)).map (footTerm v), s.lambda g v⟩

/-- One end: its bytes in element order, the object that a handle check admits, whether that check reports gone, and the pieces
of objects that its elements meet (die, slot, offset, bytes). -/
structure EndPt where
  bytes : List PByte
  obj   : Option (Nat × Nat)
  gone  : Bool
  runs  : List (Nat × Nat × Nat × Nat)
  deriving DecidableEq, Repr

/-- The first error of a list of checks. -/
def firstBad {α β : Type} (f : α → Except XStop β) : List α → Except XStop (List β)
  | [] => .ok []
  | a :: as =>
    match f a with
    | .error e => .error e
    | .ok b =>
      match firstBad f as with
      | .error e => .error e
      | .ok bs => .ok (b :: bs)

/-- A precise fault of an end. -/
def bad {α : Type} (f : Flt) : Except XStop α := .error (.fault f)

/-- An address names the region of another address (R57). -/
def sameRegion (a b : Word) : Bool := wfld a 60 4 = wfld b 60 4 && (wfld a 60 4 ≠ 11 || wfld a 22 7 = wfld b 22 7)

/-- An address stands in a window of R55. -/
def windowKnown (a : Word) : Bool :=
  let w := wfld a 60 4
  w = 0 || w = 1 || w = 4 || w = 5 || (8 ≤ w && w ≤ 11)

/-- One element in scratchpads and stores: the region of the first element, below the completion area (R210). -/
def localElem (q es : Nat) (first a : Word) : Except XStop (List PByte) :=
  match storeWin q a es with
  | .error f => bad f
  | .ok pa =>
    if !sameRegion a first then bad (wLimit a)
    else if (wfld a 60 4 = 8 || wfld a 60 4 = 11) && 0x3FFE00 < wfld a 0 22 + es then
      bad (wWindow (a + BitVec.ofNat 64 (0x3FFE00 - wfld a 0 22)))
    else .ok ((span pa es).map PByte.at)

/-- An end in scratchpads and stores. -/
def localEnd (q es : Nat) (addrs : List Word) : Except XStop EndPt :=
  match firstBad (localElem q es (addrs.headD 0)) addrs with
  | .error e => .error e
  | .ok l => .ok ⟨l.flatten, none, false, []⟩

/-- The address checks of one window 0x0 element (R55-R57). -/
def globalElem (es : Nat) (a : Word) : Except XStop Nat :=
  if wfld a 60 4 ≠ 0 then bad (if windowKnown a then wLimit a else wWindow a)
  else if wfld a 57 3 ≠ 0 then bad (wWindow a)
  else if 2 ^ 57 < a.toNat + es then bad (wLimit (BitVec.ofNat 64 (2 ^ 57)))
  else .ok a.toNat

/-- One translated byte of an access (R398); the precise translation faults. -/
def State.globalByte (s : State) (c : Nat) (write : Bool) (va : Nat) : Except XStop PByte :=
  match s.pageOf c (va / 4096) write with
  | none => .error (.pages [(va / 4096, write)])
  | some (.at t _ _) => .ok (.virt va (some (t + va % 4096)))
  | some .absent => .ok (.virt va none)
  | some .readOnly => bad (flt 0x0B 2 (BitVec.ofNat 64 va) 0)
  | some .failed => bad (flt 0x0B 1 (BitVec.ofNat 64 va) 0)

/-- How many translated bytes follow on one another from a physical number on, below an end. -/
def followers (p stop : Nat) : List PByte → Nat
  | .virt _ (some q) :: bs => if q = p && p < stop then 1 + followers (p + 1) stop bs else 0
  | _ => 0

/-- The pieces of HBM that translated bytes meet: the first address of each, and its object with offset and bytes, none where no live
object lies. Bytes of host memory and of pages that are not present have no role (R188). -/
def State.pieces (s : State) : Nat → List PByte → List (Nat × Option (Nat × Nat × Nat × Nat))
  | 0, _ => []
  | _, [] => []
  | n + 1, .virt va (some pa) :: bs =>
    if inHost pa then s.pieces n bs
    else
      match s.findObj pa with
      | none => (va, none) :: s.pieces n bs
      | some (d, slot, o) =>
        let k := followers (pa + 1) (hbmPA (o.base + o.len)) bs
        (va, some (d, slot, pa - hbmPA o.base, k + 1)) :: s.pieces n (bs.drop k)
  | n + 1, _ :: bs => s.pieces n bs

/-- The role check of one translated element (R188, R194): each of its pieces against its object's segments; without a use only a closed
range is looked for (R199). A byte of HBM in no live object faults wherever it stands (log 99). -/
def State.globalRole (s : State) (u : Option Use) (uid : Nat) (bs : List PByte) : Except XStop (List (Nat × Nat × Nat × Nat)) :=
  let one (e : Nat × Option (Nat × Nat × Nat × Nat)) : Except XStop (List (Nat × Nat × Nat × Nat)) :=
    match e.2 with
    | none => if u.isSome then bad (roleFlt 1 (BitVec.ofNat 64 e.1) 0) else .ok []
    | some (d, slot, off, n) =>
      match s.obj d slot, u with
      | some o, some use =>
        if o.isClosed off n then .error .hold
        else
          match o.check use uid off n 0 with
          | .error f => bad { f with det0 := f.det0 - o.addr off + BitVec.ofNat 64 e.1 }
          | .ok _ => .ok [(d, slot, off, n)]
      | some o, none => if o.isClosed off n then .error .hold else .ok [(d, slot, off, n)]
      | none, _ => .ok []
  match firstBad one (s.pieces bs.length bs) with
  | .error e => .error e
  | .ok l => .ok l.flatten

/-- An end in window 0x0: every address is checked, then every page translated, then every element's role. -/
def State.globalEnd (s : State) (c uid : Nat) (write : Bool) (u : Option Use) (es : Nat) (addrs : List Word) : Except XStop EndPt :=
  match firstBad (globalElem es) addrs with
  | .error e => .error e
  | .ok vas =>
    match firstBad (fun va => firstBad (s.globalByte c write) (span va es)) vas with
    | .error e => .error e
    | .ok l =>
      match firstBad (s.globalRole u uid) l with
      | .error e => .error e
      | .ok runs => .ok ⟨l.flatten, none, false, runs.flatten⟩

/-- An end through a handle (R207, R332): gone for a weak handle whose check fails. -/
def State.handleEnd (s : State) (uid : Nat) (u : Option Use) (es : Nat) (h : Word) (offs : List Int) : Except XStop EndPt :=
  if wfld h 0 16 ≠ 0 then bad (wHandle h h)
  else
    let d := handleDie h
    let slot := handleSlot h
    match s.obj d slot with
    | some o =>
      if s.handleLive h then
        let one (off : Int) : Except XStop (List PByte × (Nat × Nat × Nat × Nat)) :=
          if 0 ≤ off && o.isClosed off.toNat es then .error .hold
          else
            match u with
            | some use => match o.check use uid off es h with
              | .error f => bad f
              | .ok _ => .ok ((span (hbmPA (o.base + off.toNat)) es).map PByte.at, (d, slot, off.toNat, es))
            | none =>
              if off < 0 then bad (flt 0x03 2 (o.addr off) h)
              else if (o.len : Int) < off + es then bad (flt 0x03 2 (o.addr (max off o.len)) h)
              else .ok ((span (hbmPA (o.base + off.toNat)) es).map PByte.at, (d, slot, off.toNat, es))
        match firstBad one offs with
        | .error e => .error e
        | .ok l => .ok ⟨l.flatMap (·.1), some (d, slot), false, l.map (·.2)⟩
      else if wfld h 60 4 = 4 then bad (wStale h h) else .ok ⟨[], none, true, []⟩
    | none => if wfld h 60 4 = 4 then bad (wStale h h) else .ok ⟨[], none, true, []⟩

/-- An end in the fabric window: one device, checked at its home (R196). -/
def fabricEnd (es : Nat) (addrs : List Word) : Except XStop EndPt :=
  let first := addrs.headD 0
  let one (a : Word) : Except XStop (List PByte) :=
    if wfld a 60 4 = 1 && wfld a 48 12 = wfld first 48 12 && wfld a 0 48 + es ≤ 2 ^ 48 then
      .ok ((span (wfld a 0 48) es).map fun o => PByte.remote (wfld a 48 12) o)
    else bad (if windowKnown a then wLimit a else wWindow a)
  match firstBad one addrs with
  | .error e => .error e
  | .ok l => .ok ⟨l.flatten, none, false, []⟩

/-- Which windows an end accepts (R208). -/
inductive Accept where
  | near | far | any
  deriving DecidableEq, Repr

/-- An end of a tile move from its operand (R207, R208): strided by the shape, or dense. withBase leaves the base out for a TMC's
source (R209). -/
def State.endOf (s : State) (c uid : Nat) (op : Word) (acc : Accept) (write : Bool) (u : Option Use) (f : Foot) (strided withBase : Bool) :
    Except XStop EndPt :=
  let w := wfld op 60 4
  let near := 8 ≤ w && w ≤ 11
  let base := if withBase then f.base else 0
  let dense : List Int := (List.range f.n).map fun (m : Nat) => ((f.es * m : Nat) : Int)
  let rel := if strided then f.terms.map fun t => base + t + f.lam else dense
  let addrs := rel.map fun r => op + BitVec.ofInt 64 r
  if !windowKnown op || (acc = .near && !near) || (acc = .far && near) then bad (wWindow op)
  else if near then localEnd (coreOf c) f.es addrs
  else if w = 0 then s.globalEnd c uid write u f.es addrs
  else if w = 1 then fabricEnd f.es addrs
  else s.handleEnd uid u f.es op (if strided then rel else dense.map fun m => base + m)

/-- The destination offsets of a TMC in every named core (R209). -/
def multicastEnd (f : Foot) (mask : Word) : Except XStop EndPt :=
  let b : Word := BitVec.ofInt 64 f.base
  let top := wfld b 0 22 + f.n * f.es
  if wfld b 22 42 ≠ 0 then bad (wWindow b)
  else if mask = 0 then bad (wFootprint mask)
  else if 2 ^ 22 < top then bad (wLimit (ownAddr (2 ^ 22)))
  else if 0x3FFE00 < top then bad (wWindow (ownAddr (max 0x3FFE00 (wfld b 0 22))))
  else .ok ⟨(span (wfld b 0 22) (f.n * f.es)).map PByte.at, none, false, []⟩

/-- Act on what an end gives: a fault is raised, a hold and a missing translation stall (R86, R199). -/
def State.withEnd {α : Type} (s : State) (r : Except XStop α) (k : α → State) : State :=
  match r with
  | .ok a => k a
  | .error (.fault f) => s.raise f
  | .error .hold => s.stall
  | .error (.pages l) => s.withPages s.cur.ctx l fun s => s

end Sys2Proof.Machine
end

