-- ==== Sys2Proof/Machine/Scalar.lean ====
section
/-! DEFINITION. The scalar register operations, comparisons and predicate logic (R117-R130). -/

namespace Sys2Proof.Machine

/-- Leading zeros of the low k bits. -/
def leadZeros : Nat → Nat → Nat
  | 0, _ => 0
  | k + 1, x => if x.testBit k then 0 else 1 + leadZeros k x

/-- One bits of the low k bits. -/
def oneBits : Nat → Nat → Nat
  | 0, _ => 0
  | k + 1, x => (if x.testBit k then 1 else 0) + oneBits k x

/-- The operations of R121 and R122 at a width n: the shift amount is b mod n. -/
def aluAdd (n : Nat) (x y : BitVec n) : BitVec n := x + y
def aluSub (n : Nat) (x y : BitVec n) : BitVec n := x - y
def aluAnd (n : Nat) (x y : BitVec n) : BitVec n := x &&& y
def aluOr (n : Nat) (x y : BitVec n) : BitVec n := x ||| y
def aluXor (n : Nat) (x y : BitVec n) : BitVec n := x ^^^ y
def aluAndn (n : Nat) (x y : BitVec n) : BitVec n := x &&& ~~~y
def aluShl (n : Nat) (x y : BitVec n) : BitVec n := x <<< (y.toNat % n)
def aluShr (n : Nat) (x y : BitVec n) : BitVec n := x >>> (y.toNat % n)
def aluSar (n : Nat) (x y : BitVec n) : BitVec n := x.sshiftRight (y.toNat % n)
def aluMul (n : Nat) (x y : BitVec n) : BitVec n := x * y
def aluMulh (n : Nat) (x y : BitVec n) : BitVec n := BitVec.ofInt n (x.toInt * y.toInt / 2 ^ n)
def aluMulhz (n : Nat) (x y : BitVec n) : BitVec n := BitVec.ofNat n (x.toNat * y.toNat / 2 ^ n)
def aluDiv (n : Nat) (x y : BitVec n) : BitVec n := if y = 0 then BitVec.allOnes n else x.sdiv y
def aluDivz (n : Nat) (x y : BitVec n) : BitVec n := if y = 0 then BitVec.allOnes n else x.udiv y
def aluRem (n : Nat) (x y : BitVec n) : BitVec n := if y = 0 then x else x.srem y
def aluRemz (n : Nat) (x y : BitVec n) : BitVec n := if y = 0 then x else x.umod y
def aluMin (n : Nat) (x y : BitVec n) : BitVec n := if y.slt x then y else x
def aluMax (n : Nat) (x y : BitVec n) : BitVec n := if x.slt y then y else x
def aluMinz (n : Nat) (x y : BitVec n) : BitVec n := if y.ult x then y else x
def aluMaxz (n : Nat) (x y : BitVec n) : BitVec n := if x.ult y then y else x
def aluClz (n : Nat) (x _ : BitVec n) : BitVec n := BitVec.ofNat n (leadZeros n x.toNat)
def aluPopc (n : Nat) (x _ : BitVec n) : BitVec n := BitVec.ofNat n (oneBits n x.toNat)

/-- The result of an SA operation: 64 bits, or with w = 1 a 32-bit result sign-extended (R120). -/
def saResult (f : (n : Nat) → BitVec n → BitVec n → BitVec n) (w : BitVec 1) (x y : Word) : Word :=
  if w = 1 then (f 32 (x.setWidth 32) (y.setWidth 32)).signExtend 64 else f 64 x y

/-- An SA instruction with bound L (R121). -/
def saOp (f : (n : Nat) → BitVec n → BitVec n → BitVec n) (lat : Nat) (g d a b : BitVec 5) (w : BitVec 1) (s : State) : State :=
  s.guard5 g fun s => s.readS a fun x s => s.readS b fun y s => (s.writeS d lat (saResult f w x y)).retire

def execAdd (g d a b : BitVec 5) (w : BitVec 1) (s : State) : Out := .next (saOp aluAdd 1 g d a b w s)
def execSub (g d a b : BitVec 5) (w : BitVec 1) (s : State) : Out := .next (saOp aluSub 1 g d a b w s)
def execAnd (g d a b : BitVec 5) (w : BitVec 1) (s : State) : Out := .next (saOp aluAnd 1 g d a b w s)
def execOr (g d a b : BitVec 5) (w : BitVec 1) (s : State) : Out := .next (saOp aluOr 1 g d a b w s)
def execXor (g d a b : BitVec 5) (w : BitVec 1) (s : State) : Out := .next (saOp aluXor 1 g d a b w s)
def execAndn (g d a b : BitVec 5) (w : BitVec 1) (s : State) : Out := .next (saOp aluAndn 1 g d a b w s)
def execShl (g d a b : BitVec 5) (w : BitVec 1) (s : State) : Out := .next (saOp aluShl 1 g d a b w s)
def execShr (g d a b : BitVec 5) (w : BitVec 1) (s : State) : Out := .next (saOp aluShr 1 g d a b w s)
def execSar (g d a b : BitVec 5) (w : BitVec 1) (s : State) : Out := .next (saOp aluSar 1 g d a b w s)
def execMul (g d a b : BitVec 5) (w : BitVec 1) (s : State) : Out := .next (saOp aluMul 3 g d a b w s)
def execMulh (g d a b : BitVec 5) (w : BitVec 1) (s : State) : Out := .next (saOp aluMulh 4 g d a b w s)
def execMulhz (g d a b : BitVec 5) (w : BitVec 1) (s : State) : Out := .next (saOp aluMulhz 4 g d a b w s)
def execDiv (g d a b : BitVec 5) (w : BitVec 1) (s : State) : Out := .next (saOp aluDiv 24 g d a b w s)
def execDivz (g d a b : BitVec 5) (w : BitVec 1) (s : State) : Out := .next (saOp aluDivz 24 g d a b w s)
def execRem (g d a b : BitVec 5) (w : BitVec 1) (s : State) : Out := .next (saOp aluRem 24 g d a b w s)
def execRemz (g d a b : BitVec 5) (w : BitVec 1) (s : State) : Out := .next (saOp aluRemz 24 g d a b w s)
def execMin (g d a b : BitVec 5) (w : BitVec 1) (s : State) : Out := .next (saOp aluMin 1 g d a b w s)
def execMax (g d a b : BitVec 5) (w : BitVec 1) (s : State) : Out := .next (saOp aluMax 1 g d a b w s)
def execMinz (g d a b : BitVec 5) (w : BitVec 1) (s : State) : Out := .next (saOp aluMinz 1 g d a b w s)
def execMaxz (g d a b : BitVec 5) (w : BitVec 1) (s : State) : Out := .next (saOp aluMaxz 1 g d a b w s)
def execClz (g d a : BitVec 5) (w : BitVec 1) (s : State) : Out := .next (saOp aluClz 1 g d a 0 w s)
def execPopc (g d a : BitVec 5) (w : BitVec 1) (s : State) : Out := .next (saOp aluPopc 1 g d a 0 w s)

/-- SADD (R123): k is written k - 1. -/
def execSadd (d a b : BitVec 5) (k : BitVec 2) (s : State) : Out :=
  .next (s.readS a fun x s => s.readS b fun y s => (s.writeS d 1 ((x <<< (k.toNat + 1)) + y)).retire)

/-- The width that a size field names: 8, 16 or 32 bits (R124). -/
def szBits (s : BitVec 2) : Nat := 8 * 2 ^ s.toNat

/-- SEXT and ZEXT (R124). -/
def extOp (signed : Bool) (g d a : BitVec 5) (sz : BitVec 2) (s : State) : State :=
  s.guard5 g fun s => s.readS a fun x s =>
    (s.writeS d 1 (if signed then sextWord (szBits sz) x else (x.setWidth (szBits sz)).setWidth 64)).retire

def execSext (g d a : BitVec 5) (sz : BitVec 2) (s : State) : Out := .next (extOp true g d a sz s)
def execZext (g d a : BitVec 5) (sz : BitVec 2) (s : State) : Out := .next (extOp false g d a sz s)

/-- SEL (R125). -/
def execSel (d a b : BitVec 5) (p : BitVec 4) (s : State) : Out :=
  .next (s.readP p fun v s => s.readS a fun x s => s.readS b fun y s => (s.writeS d 1 (if v.getLsbD 0 then x else y)).retire)

/-- MOVP (R125): dir 0 moves a register to a predicate, dir 1 a predicate to a register. -/
def execMovp (r : BitVec 1) (x : BitVec 5) (p : BitVec 4) (s : State) : Out :=
  .next (if r = 0 then s.readS x fun v s => (s.writeP p 1 v).retire else s.readP p fun v s => (s.writeS x 1 v).retire)

/-- An SI instruction with bound L (R126). -/
def siOp (f : Word → Word → Word) (lat : Nat) (d a : BitVec 5) (i : Word) (s : State) : State :=
  s.readS a fun x s => (s.writeS d lat (f x i)).retire

def execAddi (d a : BitVec 5) (i : BitVec 11) (s : State) : Out := .next (siOp (aluAdd 64) 1 d a (i.signExtend 64) s)
def execAndi (d a : BitVec 5) (i : BitVec 11) (s : State) : Out := .next (siOp (aluAnd 64) 1 d a (i.signExtend 64) s)
def execOri (d a : BitVec 5) (i : BitVec 11) (s : State) : Out := .next (siOp (aluOr 64) 1 d a (i.signExtend 64) s)
def execXori (d a : BitVec 5) (i : BitVec 11) (s : State) : Out := .next (siOp (aluXor 64) 1 d a (i.signExtend 64) s)
def execShli (d a : BitVec 5) (k : BitVec 6) (s : State) : Out := .next (siOp (aluShl 64) 1 d a (k.setWidth 64) s)
def execShri (d a : BitVec 5) (k : BitVec 6) (s : State) : Out := .next (siOp (aluShr 64) 1 d a (k.setWidth 64) s)
def execSari (d a : BitVec 5) (k : BitVec 6) (s : State) : Out := .next (siOp (aluSar 64) 1 d a (k.setWidth 64) s)
def execMuli (d a : BitVec 5) (i : BitVec 11) (s : State) : Out := .next (siOp (aluMul 64) 3 d a (i.signExtend 64) s)

/-- LIL (R127). -/
def execLil (d : BitVec 5) (i : BitVec 16) (s : State) : Out := .next (s.writeS d 1 (i.signExtend 64)).retire

/-- LIH, LIU, LIX (R127): 16 bits at a place, the others kept. -/
def pieceOp (at' : Nat) (d : BitVec 5) (i : BitVec 16) (s : State) : State :=
  s.readS d fun x s => (s.writeS d 1 (blend x (0xFFFF#64 <<< at') (i.setWidth 64 <<< at'))).retire

def execLih (d : BitVec 5) (i : BitVec 16) (s : State) : Out := .next (pieceOp 16 d i s)
def execLiu (d : BitVec 5) (i : BitVec 16) (s : State) : Out := .next (pieceOp 32 d i s)
def execLix (d : BitVec 5) (i : BitVec 16) (s : State) : Out := .next (pieceOp 48 d i s)

/-- The conditions of R70 at a width. -/
def condHolds (c n : Nat) (x y : BitVec n) : Bool :=
  match c with
  | 0 => x == y
  | 1 => x != y
  | 2 => x.slt y
  | 3 => !x.slt y
  | 4 => y.slt x
  | 5 => !y.slt x
  | 6 => x.ult y
  | 7 => !x.ult y
  | 8 => y.ult x
  | 9 => !y.ult x
  | 10 => (x &&& y) != 0
  | _ => (x &&& y) == 0

/-- CMP (R128). -/
def execCmp (p c : BitVec 4) (a b : BitVec 5) (u w : BitVec 1) (s : State) : Out :=
  .next (s.readS a fun x s => s.readS b fun y s =>
    let r := if w = 1 then condHolds c.toNat 32 (x.setWidth 32) (y.setWidth 32) else condHolds c.toNat 64 x y
    let s := s.writeP p 1 (allIf 64 r)
    (if u = 1 then s.writeP (p + 1) 1 (allIf 64 !r) else s).retire)

/-- CMPI (R129). -/
def execCmpi (p : BitVec 4) (c : BitVec 3) (a : BitVec 5) (i : BitVec 9) (s : State) : Out :=
  .next (s.readS a fun x s => (s.writeP p 1 (allIf 64 (condHolds c.toNat 64 x (i.signExtend 64)))).retire)

/-- The eight operations of PLOG (R70). -/
def plogOp (o : Nat) (x y : Word) : Word :=
  match o with
  | 0 => x &&& y
  | 1 => x ||| y
  | 2 => x ^^^ y
  | 3 => x &&& ~~~y
  | 4 => x ||| ~~~y
  | 5 => ~~~(x &&& y)
  | 6 => ~~~(x ||| y)
  | _ => ~~~(x ^^^ y)

/-- PLOG (R130). -/
def execPlog (d a b : BitVec 4) (o : BitVec 3) (s : State) : Out :=
  .next (s.readP a fun x s => s.readP b fun y s => (s.writeP d 1 (plogOp o.toNat x y)).retire)

/-- The mask and value of a shape field (R72) in the 64 bytes of a shape register (log 7). -/
def shapeField (f : Nat) (v : Word) : ShapeBits × ShapeBits :=
  let put (lo w : Nat) : ShapeBits × ShapeBits :=
    (BitVec.ofNat 512 ((2 ^ w - 1) * 2 ^ lo), BitVec.ofNat 512 (v.toNat % 2 ^ w * 2 ^ lo))
  if f = 0 then put 0 64
  else if f = 1 then put 64 3
  else if f < 8 then put (128 + 16 * (f - 2)) 16
  else if f < 14 then put (256 + 32 * (f - 8)) 32
  else (0, 0)

/-- SHW (R134): the shadow copy's field, with bound 1. -/
def execShw (slot h : BitVec 2) (f a : BitVec 5) (s : State) : Out :=
  .next (s.readS a fun v s =>
    let r := 4 * slot.toNat + h.toNat
    let m := shapeField f.toNat v
    (s.modCx fun x => { x with shapeS := Sparse.put x.shapeS r ((x.shapeShadow r).push (s.mkWrite 1 false m.1 m.2)) }).retire)

/-- HWEAK (R337): a K syllable of latency 1 that touches no table. -/
def execHweak (d a : BitVec 5) (s : State) : Out :=
  .next (s.readS a fun h s =>
    if wfld h 60 4 = 4 && wfld h 0 16 = 0 then (s.writeS d 1 (h ^^^ (BitVec.ofNat 64 (2 ^ 60)))).retire else s.raise (wHandle h h))

end Sys2Proof.Machine
end

