-- ==== Sys2Proof/Machine/ScalarMem.lean ====
section
/-! DEFINITION. Scalar loads and stores, tagged accesses, tag reads and writes, and CSR accesses (R131-R143, R258-R260). -/

namespace Sys2Proof.Machine

/-- The core of the syllable in issue. -/
def State.q (s : State) : Nat := coreOf s.cur.ctx

/-- Window and alignment checks of an n-byte scalar access, in this order (R131). -/
def scalarWin (q : Nat) (ea : Word) (n : Nat) : Except Flt Nat :=
  match storeWin q ea n with
  | .error f => .error f
  | .ok pa => if ea.toNat % n = 0 then .ok pa else .error (wMisaligned ea)

/-- An access through the own-core window, whose latency is exposed (R60). -/
def ownWindow (ea : Word) : Bool := wfld ea 60 4 = 8

/-- The effective address of an SM access (R131). -/
def smAddr (n : Nat) (base : Word) (o : BitVec 8) : Word := base + o.signExtend 64 * BitVec.ofNat 64 n

/-- The register value of loaded bytes (R131). -/
def loadValue (n : Nat) (signed : Bool) (bs : List Byte) : Word :=
  if signed then sextWord (8 * n) (BitVec.ofNat 64 (leNat bs)) else BitVec.ofNat 64 (leNat bs)

/-- A load's read and result, with bound lat. -/
def loadResult (n : Nat) (signed : Bool) (lat : Nat) (d : BitVec 5) (ea : Word) (pa : Nat) (s : State) : State :=
  s.loadBytes ea (span pa n) fun bs s => (s.writeS d lat (loadValue n signed bs)).retire

/-- Plain scalar loads and stores. -/
def isPlainAccess : Instr → Bool
  | .ldb _ _ _ | .ldbz _ _ _ | .ldh _ _ _ | .ldhz _ _ _ | .ldw _ _ _ | .ldwz _ _ _ | .ldd _ _ _ => true
  | .stb _ _ _ | .sth _ _ _ | .stw _ _ _ | .std _ _ _ => true
  | _ => false

/-- A scalar access of another slot at a lower entry has not been performed: interlocked accesses take effect in entry order (R132). -/
def State.behindAccess (s : State) : Bool :=
  s.cx.queue.any fun d => d.entry < s.cur.entry && d.left.any fun q => q.slot ≠ s.cur.slot && isPlainAccess q.syl.instr

/-- LD (R131, R132): in the own window with bound 4, elsewhere interlocked as a block event; a speculative task's load outside
its footprint and completion entries stalls (R315). -/
def loadOp (n : Nat) (signed : Bool) (d a : BitVec 5) (o : BitVec 8) (s : State) : State :=
  s.readS a fun base s =>
    let ea := smAddr n base o
    s.check (scalarWin s.q ea n) fun pa =>
      if s.cx.speculative && !s.direct s.cur.ctx true (span pa n) then s.block .speculation
      else if ownWindow ea then loadResult n signed 4 d ea pa s
      else if s.behindAccess then s.stall
      else s.landSlot.blockWith .interlocked [ea]

/-- An access of a word or bytes waits: for a move that holds its bytes, or for the delivery of its context's older messages to the same
store (R213, R404). -/
def State.accessHeld (s : State) (as : List Nat) : Bool :=
  s.held s.cur.ctx as || s.undelivered s.cur.ctx s.cx.uid (s.isOlder s.cur.ctx s.cur.entry) (storesOf s.cur.ctx as)

/-- An interlocked load completes at the address that it computed at its issue (R45, R132). -/
def loadLate (n : Nat) (signed : Bool) (d : BitVec 5) (ea : Word) (s : State) : State :=
  s.check (scalarWin s.q ea n) fun pa =>
    if s.accessHeld (span pa n) then s.block .interlocked else loadResult n signed 0 d ea pa s

def execLdb (d a : BitVec 5) (o : BitVec 8) (s : State) : Out := .next (loadOp 1 true d a o s)
def execLdbz (d a : BitVec 5) (o : BitVec 8) (s : State) : Out := .next (loadOp 1 false d a o s)
def execLdh (d a : BitVec 5) (o : BitVec 8) (s : State) : Out := .next (loadOp 2 true d a o s)
def execLdhz (d a : BitVec 5) (o : BitVec 8) (s : State) : Out := .next (loadOp 2 false d a o s)
def execLdw (d a : BitVec 5) (o : BitVec 8) (s : State) : Out := .next (loadOp 4 true d a o s)
def execLdwz (d a : BitVec 5) (o : BitVec 8) (s : State) : Out := .next (loadOp 4 false d a o s)
def execLdd (d a : BitVec 5) (o : BitVec 8) (s : State) : Out := .next (loadOp 8 true d a o s)

/-- The bytes of a number at consecutive physical numbers. -/
def bytesAt (pa n x : Nat) : List (Nat × Byte) := (span pa n).zip (leBytes n x)

/-- ST (R131, R132): in the own window it lands exactly at e + 4, elsewhere it is interlocked; a speculative task's store
outside its footprint is buffered (R315). -/
def storeOp (n : Nat) (r a : BitVec 5) (o : BitVec 8) (s : State) : State :=
  s.readS a fun base s => s.readS r fun v s =>
    let ea := smAddr n base o
    s.check (scalarWin s.q ea n) fun pa =>
      if s.cx.speculative && !s.direct s.cur.ctx true (span pa n) then
        s.buffer (.write s.cur.entry (bytesAt pa n v.toNat)) fun s => s.retire
      else if ownWindow ea then
        if s.held s.cur.ctx (span pa n) then s.stall
        else (s.storeOwn .scalar 4 ea (BitVec.ofNat 64 n) 0 (v.setWidth 2048) 0 (bytesAt pa n v.toNat)).retire
      else if s.behindAccess then s.stall
      else s.landSlot.blockWith .interlocked [ea, v]

/-- An interlocked store completes: its bytes are written at the destination, with the operands that it read at its issue (R45, R132). -/
def storeLate (n : Nat) (ea v : Word) (s : State) : State :=
  s.check (scalarWin s.q ea n) fun pa =>
    if s.accessHeld (span pa n) then s.block .interlocked
    else ({ s with mem := writeNat s.mem pa n v.toNat }.overwrite s.cur.ctx s.cur.entry (span pa n)).retire

def execStb (r a : BitVec 5) (o : BitVec 8) (s : State) : Out := .next (storeOp 1 r a o s)
def execSth (r a : BitVec 5) (o : BitVec 8) (s : State) : Out := .next (storeOp 2 r a o s)
def execStw (r a : BitVec 5) (o : BitVec 8) (s : State) : Out := .next (storeOp 4 r a o s)
def execStd (r a : BitVec 5) (o : BitVec 8) (s : State) : Out := .next (storeOp 8 r a o s)

/-- The word at an effective address of a tagged access (R259): window and region, then alignment. -/
def tagWord (q : Nat) (ea : Word) : Except Flt (Word × Nat) :=
  match scalarWin q ea 8 with
  | .ok pa => .ok (ea, pa)
  | .error f => .error f

/-- The word of a tagged access (R259). -/
def tagWin (q : Nat) (base : Word) (o : BitVec 9) : Except Flt (Word × Nat) := tagWord q (base + o.signExtend 64 * 8)

/-- LDF and LDFE act on the tag of their word, once no move holds it and older messages to its store are delivered (R213, R259, R404). -/
def loadTaggedAt (clear : Bool) (d : BitVec 5) (w : Word × Nat) (s : State) : State :=
  let s := s.landSlot
  let t := tagAt s.tags w.2
  if s.accessHeld (span w.2 8) then s.stall
  else if t = tagEmpty then s.blockOn w.2 .tagged [w.1]
  else if t = tagBroken then ((s.writeS d 0 0).flagFst 0 flagBRK).retire
  else s.loadBytes w.1 (span w.2 8) fun bs s =>
    let s := s.writeS d 0 (BitVec.ofNat 64 (leNat bs))
    (if clear then { s with tags := setTag s.tags w.2 tagEmpty } else s).retire

/-- LDF and LDFE (R259): acquire loads that wait for FULL; LDFE leaves EMPTY. -/
def loadTagged (clear : Bool) (d a : BitVec 5) (o : BitVec 9) (s : State) : State :=
  s.readS a fun base s => s.check (tagWin s.q base o) fun w => s.unlessSpec fun s => loadTaggedAt clear d w s

def execLdf (d a : BitVec 5) (o : BitVec 9) (s : State) : Out := .next (loadTagged false d a o s)
def execLdfe (d a : BitVec 5) (o : BitVec 9) (s : State) : Out := .next (loadTagged true d a o s)

/-- Write a word and tag it FULL, acting on the tag as STFL does (R259); the flag reports BROKEN. -/
def State.putFull (s : State) (pa : Nat) (v : Word) : State :=
  { s with mem := writeNat s.mem pa 8 v.toNat, tags := setTag s.tags pa tagFull }.overwrite 0 0 (span pa 8)

/-- STE and STFL act at the home (R259): a release; BROKEN and POISON write nothing. -/
def storeTaggedNow (w : Word × Nat) (v : Word) (s : State) : State :=
  s.release (smallestScope s.cur.ctx w.2) fun s =>
    let t := tagAt s.tags w.2
    if s.accessHeld (span w.2 8) then s.stall
    else if t = tagPoison then s.raiseLate 0x20 2 w.1
    else if t = tagBroken then (s.flagFst 0 flagBRK).retire
    else (s.putFull w.2 v).retire

/-- STE waits for EMPTY first (R259). -/
def storeEmptyAt (w : Word × Nat) (v : Word) (s : State) : State :=
  let s := s.landSlot
  if tagAt s.tags w.2 = tagFull then s.blockOn w.2 .tagged [w.1, v] else storeTaggedNow w v s

/-- STE (R259). -/
def storeEmpty (r a : BitVec 5) (o : BitVec 9) (s : State) : State :=
  s.readS a fun base s => s.readS r fun v s => s.check (tagWin s.q base o) fun w => s.unlessSpec fun s => storeEmptyAt w v s

def execSte (r a : BitVec 5) (o : BitVec 9) (s : State) : Out := .next (storeEmpty r a o s)

/-- STFL (R259): writes whatever the tag; a speculative task's is buffered (R315). -/
def execStfl (r a : BitVec 5) (o : BitVec 9) (s : State) : Out :=
  .next (s.readS a fun base s => s.readS r fun v s => s.check (tagWin s.q base o) fun w =>
    if s.cx.speculative then s.buffer (.stfl s.cur.entry w.2 v) fun s => s.landSlot.retire
    else storeTaggedNow w v s.landSlot)

/-- An operand that a waiting syllable has read (R45). -/
def Queued.op (q : Queued) (n : Nat) : Word := q.ops.getD n 0

/-- A tagged access that waits acts again on the word that it names (R259). -/
def taggedOp (q : Queued) : Option (State → State) :=
  match q.syl.instr with
  | .ldf d _ _ => some fun s => s.check (tagWord s.q (q.op 0)) fun w => loadTaggedAt false d w s
  | .ldfe d _ _ => some fun s => s.check (tagWord s.q (q.op 0)) fun w => loadTaggedAt true d w s
  | .ste _ _ _ => some fun s => s.check (tagWord s.q (q.op 0)) fun w => storeEmptyAt w (q.op 1) s
  | _ => none

/-- A tagged access whose word has become BROKEN while it waited (R259, R275). -/
def taggedBroken : Instr → Option (State → State)
  | .ldf d _ _ => some fun s => ((s.writeS d 0 0).flagFst 0 flagBRK).retire
  | .ldfe d _ _ => some fun s => ((s.writeS d 0 0).flagFst 0 flagBRK).retire
  | .ste _ _ _ => some fun s => (s.flagFst 0 flagBRK).retire
  | _ => none

/-- A tagged access that waits on a word of a barrier that BARI has tagged FULL: it waits on until another party changes the tag (R264). -/
def taggedUnheard (q : Queued) : Option (State → State) :=
  (taggedOp q).map fun op s =>
    if q.word.any fun pa => tagAt s.tags pa = tagFull then s.blockOn (q.word.getD 0) .unheard q.ops else op s

/-- TAGGED_WAKE (R259): a waiting tagged access acts on the new tag. -/
def execTaggedWake (c : Nat) (s : State) : Out :=
  .next (s.wakes c [(.tagged, taggedOp), (.broken, fun q => taggedBroken q.syl.instr), (.unheard, taggedUnheard)])

/-- TAGGET (R260). -/
def execTagget (d a : BitVec 5) (o : BitVec 9) (s : State) : Out :=
  .next (s.readS a fun base s => s.check (tagWin s.q base o) fun w =>
    s.unlessSpec fun s =>
      if s.accessHeld (span w.2 8) then s.stall else (s.landSlot.writeS d 0 ((tagAt s.tags w.2).setWidth 64)).retire)

/-- Set the tag of a word: a word made BROKEN ends every wait on it as on a BROKEN word (R259, R274, R275). -/
def State.tagWrite (s : State) (pa : Nat) (t : BitVec 2) : State :=
  if t = tagBroken then s.breakWord pa else { s with tags := setTag s.tags pa t }

/-- TAGSET (R260): never to or from POISON. -/
def execTagset (r a : BitVec 5) (o : BitVec 9) (s : State) : Out :=
  .next (s.readS a fun base s => s.readS r fun v s => s.check (tagWin s.q base o) fun w =>
    s.unlessSpec fun s =>
      if s.accessHeld (span w.2 8) then s.stall
      else if (v.setWidth 2 : BitVec 2) = tagPoison || tagAt s.tags w.2 = tagPoison then s.raise (wPoison w.1)
      else (s.landSlot.tagWrite w.2 (v.setWidth 2)).retire)

/-- INTERLOCKED_COMPLETION (R132): a scalar access outside the own-core window completes. -/
def interlockedScalar (q : Queued) (s : State) : State :=
  match q.syl.instr with
  | .ldb d _ _ => loadLate 1 true d (q.op 0) s
  | .ldbz d _ _ => loadLate 1 false d (q.op 0) s
  | .ldh d _ _ => loadLate 2 true d (q.op 0) s
  | .ldhz d _ _ => loadLate 2 false d (q.op 0) s
  | .ldw d _ _ => loadLate 4 true d (q.op 0) s
  | .ldwz d _ _ => loadLate 4 false d (q.op 0) s
  | .ldd d _ _ => loadLate 8 true d (q.op 0) s
  | .stb _ _ _ => storeLate 1 (q.op 0) (q.op 1) s
  | .sth _ _ _ => storeLate 2 (q.op 0) (q.op 1) s
  | .stw _ _ _ => storeLate 4 (q.op 0) (q.op 1) s
  | .std _ _ _ => storeLate 8 (q.op 0) (q.op 1) s
  | _ => s

/-- The bits that read-only or ignored fields of a CSR keep at a CSRW; SSTAT.MODE and PREEMPT.BUSY are read only (R363, R364). -/
def csrKept (n : Nat) : Word := if n = csrSSTAT then 1 else if n = csrPREEMPT then 2 else 0

/-- The bits of a CSR that its map marks zero (R137-R139, R142, R361-R364). A template word has none (R143). -/
def csrZero (n : Nat) : Word :=
  if n = csrCTL || n = csrFST then ~~~0xFF
  else if n = csrATTN then ~~~0xF
  else if n = csrTVEC || n = csrEPC then 3
  else if n = csrTREC then 0xFFF
  else if n = csrTCAUSE then 0x000000FFFFFFFC00
  else if n = csrSSTAT then 0xFFFFFFFF00FFFFFC
  else if n = csrPREEMPT then ~~~3
  else 0

/-- CTX of a context (R141): die, cluster, core and context stand in the bits of its index. -/
def ctxWord (c : Nat) : Word := BitVec.ofNat 64 c

/-- MARGIN of a die (R364). -/
def marginWord (d : Die) : Word := BitVec.ofNat 64 (d.epoch.toNat * 2 ^ 32 + d.guardBand.toNat * 256 + (if d.replan then 1 else 0))

/-- The value of a CSR that is not held as a register: CYC, CTX, LK, SEQ, MARGIN (R141, R364). CYC advances by a free amount
before each read (log 4). -/
def State.specialCsr (s : State) (n : Nat) : Option (Word × State) :=
  let t := s.cx.task
  if n = 2 then
    let f := s.freeBits 64
    let v := (s.core s.q).cyc + f.1
    some (v, f.2.modCore s.q fun q => { q with cyc := v })
  else if n = 3 then some (ctxWord s.cur.ctx, s)
  else if n = 4 then some ((t.map fun t => t.trec.lk.setWidth 64).getD 0, s)
  else if n = 5 then some ((t.map fun t => t.trec.seq.setWidth 64).getD 0, s)
  else if n = 0x806 then some (marginWord (s.die (dieOf s.cur.ctx)), s)
  else none

/-- The privilege check of a CSR number (R74). -/
def State.csrPrivilege (s : State) (n : Nat) (k : State → State) : State :=
  if 0x800 ≤ n then s.privileged k else k s

/-- CSRR (R136). -/
def execCsrr (d : BitVec 5) (c : BitVec 12) (s : State) : Out :=
  .next (s.csrPrivilege c.toNat fun s =>
    match s.specialCsr c.toNat with
    | some r => (r.2.writeS d 2 r.1).retire
    | none => s.readCell (s.cx.csrCell c.toNat) fun v s => (s.writeS d 2 v).retire)

/-- A CSRW to CTL changes PART, as every CSRW before it leaves it, while some M syllable of the context at a lower entry is not complete by
the next entry (R245). A handler issues no M syllable, and its entries are of a count of their own (R356). -/
def State.partBusy (s : State) (v : Word) : Bool :=
  ctlPart v ≠ ctlPart (s.cx.csrCell csrCTL).settle.base && !s.cx.supervisor &&
    s.cx.mdone.any fun k => k.1 < s.cur.entry && s.cur.entry + 1 ≤ k.2

/-- CSRW (R136, R137): takes effect at e + 1; a bit marked zero, or PART changed too early, faults. A
request that PREEMPT.REQ has made stays when 0 is written there (DESIGN CHOICE, log 105). -/
def execCsrw (a : BitVec 5) (c : BitVec 12) (s : State) : Out :=
  .next (s.csrPrivilege c.toNat fun s => s.readS a fun v s =>
    if v &&& csrZero c.toNat ≠ 0 then s.raise (flt 0x02 2 0 0)
    else if c.toNat = csrCTL && s.partBusy v then s.raise (flt 0x02 2 0 0)
    else
      let s := s.writeCsr c.toNat 1 (~~~csrKept c.toNat) v
      (if c.toNat = csrPREEMPT && v.getLsbD 0 then s.modCx fun x => { x with preemptReq := true } else s).retire)

end Sys2Proof.Machine
end

