-- ==== Sys2Proof/Machine/Vector.lean ====
section
/-! DEFINITION. The vector instructions (R162-R183). -/

namespace Sys2Proof.Machine

/-- Lane i of a vector register (R162). -/
def lane (v : VReg) (i : Nat) : Half := v.extractLsb' (32 * i) 32

/-- The number that lanes make, lane 0 lowest. -/
def packLanes : List Half → Nat
  | [] => 0
  | x :: xs => x.toNat + 2 ^ 32 * packLanes xs

/-- A vector register from its lanes. -/
def ofLanes (g : Nat → Half) : VReg := BitVec.ofNat 2048 (packLanes ((List.range 64).map g))

/-- The bits of the lanes that a mask predicate selects. -/
def laneMask (p : Word) : VReg := ofLanes fun i => allIf 32 (p.getLsbD i)

/-- The selected lanes in ascending order. -/
def activeLanes (p : Word) : List Nat := (List.range 64).filter fun i => p.getLsbD i

/-- The rounding mode, saturation and flush that a syllable reads from CTL at its issue (R105, R163). -/
def State.fenv (s : State) (k : FEnv → State → State) : State :=
  s.readCell (s.cx.csrCell csrCTL) fun ctl s => k ⟨ctlRm ctl, ctlSat ctl, ctlFzn ctl⟩ s

/-- The union of the flags of a list of results. -/
def flagsOf (l : List FRes) : Word := l.foldl (fun w r => w ||| r.flags) 0

/-- Lane results: bits of the i-th, as a lane. -/
def resLane (l : List FRes) (i : Nat) : Half := BitVec.ofNat 32 ((l.getD i ⟨0, 0⟩).bits)

/-- Land the selected lanes and their flags within lat, and retire (R162, R163). -/
def State.putLanes (s : State) (d : BitVec 5) (lat : Nat) (p : Word) (g : Nat → FRes) : State :=
  let l := (List.range 64).map fun i => if p.getLsbD i then g i else ⟨0, 0⟩
  ((s.writeV d lat false (laneMask p) (ofLanes (resLane l))).flagFst lat (flagsOf l)).retire

/-- An integer result: no flag (R93). -/
def plain (x : Half) : FRes := ⟨x.toNat, 0⟩

/-- A two-operand element-wise instruction. -/
def vBin (f : FEnv → Half → Half → FRes) (lat : Nat) (m : BitVec 4) (d a b : BitVec 5) (s : State) : State :=
  s.unlent d fun s => s.readP m fun p s => s.readV a fun x s => s.readV b fun y s =>
    s.fenv fun e s =>
    s.putLanes d lat p fun i => f e (lane x i) (lane y i)

/-- A one-operand element-wise instruction. -/
def vUn (f : FEnv → Half → FRes) (lat : Nat) (m : BitVec 4) (d a : BitVec 5) (s : State) : State :=
  s.unlent d fun s => s.readP m fun p s => s.readV a fun x s =>
    s.fenv fun e s =>
    s.putLanes d lat p fun i => f e (lane x i)

/-- The signed exact result clamped to 32 bits (R168). -/
def clamp32 (x : Int) : FRes := plain (BitVec.ofInt 32 (max (-(2 ^ 31)) (min (2 ^ 31 - 1) x)))

/-- The element operations of R167 and R168 by type: 00 f32, 01 i32, 10 u32, 11 the alternate. -/
def addLane (t : BitVec 2) (e : FEnv) (a b : Half) : FRes :=
  match t.toNat with
  | 0 => fAdd e (f32 a) (f32 b)
  | 3 => clamp32 (a.toInt + b.toInt)
  | _ => plain (a + b)
def subLane (t : BitVec 2) (e : FEnv) (a b : Half) : FRes :=
  match t.toNat with
  | 0 => fSub e (f32 a) (f32 b)
  | 3 => clamp32 (a.toInt - b.toInt)
  | _ => plain (a - b)
def mulLane (t : BitVec 2) (e : FEnv) (a b : Half) : FRes :=
  match t.toNat with
  | 0 => fMul e (f32 a) (f32 b)
  | 3 => plain (BitVec.ofInt 32 (a.toInt * b.toInt / 2 ^ 32))
  | _ => plain (a * b)
def fmaLane (t : BitVec 2) (e : FEnv) (d a b : Half) : FRes :=
  match t.toNat with
  | 0 => fFma e (f32 d) (f32 a) (f32 b)
  | _ => plain (d + a * b)
def minLane (t : BitVec 2) (_ : FEnv) (a b : Half) : FRes :=
  match t.toNat with
  | 0 => fMinMax false false a b
  | 1 => plain (aluMin 32 a b)
  | 2 => plain (aluMinz 32 a b)
  | _ => fMinMax false true a b
def maxLane (t : BitVec 2) (_ : FEnv) (a b : Half) : FRes :=
  match t.toNat with
  | 0 => fMinMax true false a b
  | 1 => plain (aluMax 32 a b)
  | 2 => plain (aluMaxz 32 a b)
  | _ => fMinMax true true a b
def absLane (t : BitVec 2) (_ : FEnv) (a : Half) : FRes :=
  match t.toNat with
  | 0 => fSign (fun x => x &&& 0x7FFFFFFF) a
  | _ => plain (if a.toInt < 0 then -a else a)
def negLane (t : BitVec 2) (_ : FEnv) (a : Half) : FRes :=
  match t.toNat with
  | 0 => fSign (fun x => x ^^^ 0x80000000) a
  | _ => plain (-a)

def execVadd (m : BitVec 4) (t : BitVec 2) (d a b : BitVec 5) (s : State) : Out := .next (vBin (addLane t) 2 m d a b s)
def execVsub (m : BitVec 4) (t : BitVec 2) (d a b : BitVec 5) (s : State) : Out := .next (vBin (subLane t) 2 m d a b s)
def execVmul (m : BitVec 4) (t : BitVec 2) (d a b : BitVec 5) (s : State) : Out := .next (vBin (mulLane t) 3 m d a b s)
def execVmin (m : BitVec 4) (t : BitVec 2) (d a b : BitVec 5) (s : State) : Out := .next (vBin (minLane t) 2 m d a b s)
def execVmax (m : BitVec 4) (t : BitVec 2) (d a b : BitVec 5) (s : State) : Out := .next (vBin (maxLane t) 2 m d a b s)
def execVabs (m : BitVec 4) (t : BitVec 2) (d a : BitVec 5) (s : State) : Out := .next (vUn (absLane t) 2 m d a s)
def execVneg (m : BitVec 4) (t : BitVec 2) (d a : BitVec 5) (s : State) : Out := .next (vUn (negLane t) 2 m d a s)

/-- VFMA reads vd, va and vb (R167). -/
def execVfma (m : BitVec 4) (t : BitVec 2) (d a b : BitVec 5) (s : State) : Out :=
  .next (s.readP m fun p s => s.readV d fun z s => s.readV a fun x s => s.readV b fun y s =>
    s.fenv fun e s =>
    s.putLanes d 4 p fun i => fmaLane t e (lane z i) (lane x i) (lane y i))

def execVand (m : BitVec 4) (d a b : BitVec 5) (s : State) : Out := .next (vBin (fun _ x y => plain (x &&& y)) 2 m d a b s)
def execVor (m : BitVec 4) (d a b : BitVec 5) (s : State) : Out := .next (vBin (fun _ x y => plain (x ||| y)) 2 m d a b s)
def execVxor (m : BitVec 4) (d a b : BitVec 5) (s : State) : Out := .next (vBin (fun _ x y => plain (x ^^^ y)) 2 m d a b s)
def execVshl (m : BitVec 4) (d a b : BitVec 5) (s : State) : Out := .next (vBin (fun _ x y => plain (aluShl 32 x y)) 2 m d a b s)
def execVshr (m : BitVec 4) (d a b : BitVec 5) (s : State) : Out := .next (vBin (fun _ x y => plain (aluShr 32 x y)) 2 m d a b s)
def execVsar (m : BitVec 4) (d a b : BitVec 5) (s : State) : Out := .next (vBin (fun _ x y => plain (aluSar 32 x y)) 2 m d a b s)
def execVmov (m : BitVec 4) (d a : BitVec 5) (s : State) : Out := .next (vUn (fun _ x => plain x) 2 m d a s)
def execVpopc (m : BitVec 4) (d a : BitVec 5) (s : State) : Out :=
  .next (vUn (fun _ x => plain (BitVec.ofNat 32 (oneBits 32 x.toNat))) 3 m d a s)

/-- VIOTA (R167). -/
def execViota (m : BitVec 4) (d : BitVec 5) (s : State) : Out :=
  .next (s.unlent d fun s => s.readP m fun p s => s.putLanes d 1 p fun i => ⟨i, 0⟩)

/-- VSEL (R169): m selects and does not mask. -/
def execVsel (m : BitVec 4) (d a b : BitVec 5) (s : State) : Out :=
  .next (s.unlent d fun s => s.readP m fun p s => s.readV a fun x s => s.readV b fun y s =>
    s.putLanes d 2 (BitVec.allOnes 64) fun i => plain (if p.getLsbD i then lane x i else lane y i))

/-- The conditions of VCMP (R170). -/
def cmpLane (t : BitVec 2) (c : BitVec 1) (a b : Half) : Bool × Word :=
  match t.toNat with
  | 1 => (if c = 0 then a = b else a.slt b, 0)
  | 2 => (if c = 0 then a = b else a.ult b, 0)
  | _ => fCmp t c a b

/-- A predicate from its bits. -/
def ofBits (g : Nat → Bool) : Word := BitVec.ofNat 64 ((List.range 64).foldr (fun i n => (if g i then 1 else 0) + 2 * n) 0)

/-- VCMP (R170): an inactive lane's bit is 0. -/
def execVcmp (m : BitVec 4) (t : BitVec 2) (c : BitVec 1) (pd : BitVec 4) (a b : BitVec 5) (s : State) : Out :=
  .next (s.readP m fun p s => s.readV a fun x s => s.readV b fun y s =>
    let r (i : Nat) : Bool × Word := if p.getLsbD i then cmpLane t c (lane x i) (lane y i) else (false, 0)
    let flags := (List.range 64).foldl (fun w i => w ||| (r i).2) 0
    ((s.writeP pd 2 (ofBits fun i => (r i).1)).flagFst 2 flags).retire)

/-- The one-lane conversions of R171 by code. -/
def cvtLane (c : Nat) (e : FEnv) (a : Half) : FRes :=
  let narrow (f : FF) : FRes := let n := f32 a; let r := f.convert e n; ⟨r.bits, r.flags ||| n.sig⟩
  let widen (f : FF) : FRes := let n := f.operand e.fzn a.toNat; toF32 e n n.sig
  let int (w : Nat) (signed : Bool) : FRes := let r := narrowInt e.sat w signed a.toInt; ⟨(BitVec.ofInt 32 r.1).toNat, r.2⟩
  match c with
  | 0x00 => toInt e 32 true (f32 a)
  | 0x01 => toInt e 32 false (f32 a)
  | 0x02 => FF.fp32.convert e (intNum a.toInt)
  | 0x03 => FF.fp32.convert e (intNum a.toNat)
  | 0x04 => narrow .fp16
  | 0x05 => narrow .bf16
  | 0x06 => narrow .e4m3
  | 0x07 => narrow .e5m2
  | 0x08 => narrow .e2m1
  | 0x09 => widen .fp16
  | 0x0A => widen .bf16
  | 0x0B => widen .e4m3
  | 0x0C => widen .e5m2
  | 0x0D => widen .e2m1
  | 0x0E => int 8 true
  | 0x0F => int 8 false
  | 0x10 => int 16 true
  | _ => int 16 false

/-- The destination of an fx64 conversion (R171). -/
def fxDest (c : Nat) : FF := if c = 0x12 then .fp32 else if c = 0x13 then .bf16 else .fp16

/-- Pairs whose even lane is active are active whole (R171, R176). -/
def pairMask (p : Word) : Word := ofBits fun i => p.getLsbD (i / 2 * 2)

/-- VCVT (R171): the fx64 rows take lanes in pairs, with the scale exponent in the even lane of vd. -/
def execVcvt (m : BitVec 4) (d a c : BitVec 5) (s : State) : Out :=
  .next (
    if 0x12 ≤ c.toNat then
      s.readP m fun p s => s.readV d fun z s => s.readV a fun x s =>
        s.fenv fun e s =>
        s.putLanes d 3 (pairMask p) fun i =>
          if i % 2 = 1 then ⟨0, 0⟩
          else (fxDest c.toNat).convert e (fxNum ((lane z i).setWidth 8).toInt (lane x (i + 1) ++ lane x i))
    else vUn (cvtLane c.toNat) 3 m d a s)

/-- The narrow format of VQUANT and VDEQ and its emax (R115, R172). -/
def quantFmt (f : BitVec 2) : FF := match f.toNat with | 0 => .e4m3 | 1 => .e5m2 | _ => .e2m1
def quantEmax : FF → Int
  | .e4m3 => 8
  | .e5m2 => 15
  | _ => 2

/-- A block quantised by R115: scale, codes and flags. A block with a NaN sets QNAN alone, a signalling one too (DESIGN CHOICE,
log 91). -/
def quantBlock (f : FF) (env : FEnv) (x : List Num) : Nat × List FRes :=
  if x.any Num.isNan then (0xFF, x.map fun _ => ⟨0, flagQNAN⟩)
  else
    let tops := x.filterMap fun n => match n with
      | .fin _ m e => if m = 0 then none else some ((Nat.log2 m : Int) + e)
      | _ => none
    let top := match tops with
      | [] => 0
      | t :: ts => ts.foldl max t - quantEmax f
    let e := max (-127) top
    let one (n : Num) : FRes :=
      match n with
      | .nan _ => ⟨0, 0⟩
      | .inf neg => if f = .e5m2 then ⟨f.infinity neg, 0⟩ else ⟨f.signed neg f.maxCode, flagQINF⟩
      | .fin neg m k =>
        let q := f.round env.rm neg m (k - e)
        if f.maxCode < q.1 then ⟨f.signed neg f.maxCode, flagQSAT ||| flagNX⟩
        else
          let nx := if q.2 then flagNX else 0
          if env.fzn && f.flushes && 0 < q.1 && q.1 < 2 ^ f.fbits then ⟨f.signed neg 0, nx ||| flagUF ||| flagNX⟩
          else ⟨f.signed neg q.1, nx⟩
    ((e + 127).toNat, x.map one)

/-- A vector register from bytes, byte 0 lowest. -/
def ofBytes (l : List Nat) : VReg := BitVec.ofNat 2048 (l.foldr (fun b n => b % 256 + 256 * n) 0)

/-- Codes packed two to a byte (R95). -/
def packPairs : List Nat → List Nat
  | a :: b :: l => (a + 16 * b) :: packPairs l
  | _ => []

/-- The quantised layout of R172: 64 bytes of codes, 8 scales, zeros. -/
def quantLayout (f : FF) (codes scales : List Nat) : VReg :=
  let c := if f = .e2m1 then packPairs codes ++ List.replicate 32 0 else codes
  ofBytes (c ++ scales)

/-- VQUANT (R172): inactive lanes count as +0; every byte of vd is written. -/
def execVquant (m : BitVec 4) (d a : BitVec 5) (f : BitVec 2) (s : State) : Out :=
  .next (s.unlent d fun s => s.readP m fun p s => s.readV a fun x s =>
    s.fenv fun e s =>
    let x' := (List.range 64).map fun i => if p.getLsbD i then f32 (lane x i) else .fin false 0 0
    let q := (chunks 8 8 x').map (quantBlock (quantFmt f) e)
    let codes := q.flatMap (·.2)
    ((s.writeV d 6 false (BitVec.allOnes 2048) (quantLayout (quantFmt f) (codes.map (·.bits)) (q.map (·.1)))).flagFst 6
      (flagsOf codes)).retire)

/-- Code i of a register in the quantised layout (R172). -/
def quantCode (f : FF) (v : VReg) (i : Nat) : Nat :=
  if f = .e2m1 then (v.extractLsb' (4 * i) 4).toNat else (v.extractLsb' (8 * i) 8).toNat

/-- VDEQ of one lane (R116). -/
def deqLane (f : FF) (e : FEnv) (v : VReg) (i : Nat) : FRes :=
  let c := (v.extractLsb' (512 + 8 * (i / 8)) 8).toNat
  if c = 0xFF then ⟨FF.fp32.nan, flagNV⟩ else FF.fp32.convert e ((f.operand e.fzn (quantCode f v i)).block c)

/-- VDEQ (R172). -/
def execVdeq (m : BitVec 4) (d a : BitVec 5) (f : BitVec 2) (s : State) : Out :=
  .next (s.unlent d fun s => s.readP m fun p s => s.readV a fun x s =>
    s.fenv fun e s =>
    s.putLanes d 4 p fun i => deqLane (quantFmt f) e x i)

/-- The operation of VRED and VSCAN: 0 add, 1 min, 2 max (R173). -/
def redOp (t : BitVec 2) (o : Nat) (e : FEnv) (a b : Half) : FRes :=
  match o with
  | 0 => addLane t e a b
  | 1 => minLane t e a b
  | _ => maxLane t e a b

/-- The identity with which an inactive lane enters (R113, R173). -/
def redIdentity (t : BitVec 2) (o : Nat) : Half :=
  match t.toNat, o with
  | 0, 0 => 0x80000000
  | 0, 1 => 0x7F800000
  | 0, _ => 0xFF800000
  | _, 0 => 0
  | 1, 1 => 0x7FFFFFFF
  | 1, _ => 0x80000000
  | _, 1 => 0xFFFFFFFF
  | _, _ => 0

/-- One level of the tree of R113: neighbours combine, the lower lane on the left. -/
def pairUp (f : Half → Half → FRes) : List FRes → List FRes
  | a :: b :: l =>
    let r := f (BitVec.ofNat 32 a.bits) (BitVec.ofNat 32 b.bits)
    ⟨r.bits, a.flags ||| b.flags ||| r.flags⟩ :: pairUp f l
  | l => l

/-- One level of the scan of R113 at distance d. -/
def scanLevel (f : Half → Half → FRes) (x : List FRes) (d : Nat) : List FRes :=
  (List.range 64).map fun i =>
    let a := x.getD (i - d) ⟨0, 0⟩
    let b := x.getD i ⟨0, 0⟩
    if i < d then b
    else
      let r := f (BitVec.ofNat 32 a.bits) (BitVec.ofNat 32 b.bits)
      ⟨r.bits, a.flags ||| b.flags ||| r.flags⟩

/-- The lanes of a reduction after masking (R113). -/
def redInput (t : BitVec 2) (o : Nat) (p : Word) (x : VReg) : List FRes :=
  (List.range 64).map fun i => plain (if p.getLsbD i then lane x i else redIdentity t o)

/-- VRED (R113, R173): writes only lane 0. -/
def execVred (m : BitVec 4) (t : BitVec 2) (d a o : BitVec 5) (s : State) : Out :=
  .next (s.unlent d fun s => s.readP m fun p s => s.readV a fun x s =>
    s.fenv fun e s =>
    let f := redOp t o.toNat e
    let r := (List.range 6).foldl (fun l _ => pairUp f l) (redInput t o.toNat p x)
    s.putLanes d 8 1 fun i => r.getD i ⟨0, 0⟩)

/-- VSCAN (R113, R173): writes all 64 lanes; the flags are those of the combinations that the results of active lanes hold (R163; log
76). -/
def execVscan (m : BitVec 4) (t : BitVec 2) (d a o : BitVec 5) (s : State) : Out :=
  .next (s.unlent d fun s => s.readP m fun p s => s.readV a fun x s =>
    s.fenv fun e s =>
    let f := redOp t o.toNat e
    let r := (List.range 6).foldl (fun l lev => scanLevel f l (2 ^ lev)) (redInput t o.toNat p x)
    let active := (activeLanes p).map fun i => r.getD i ⟨0, 0⟩
    ((s.writeV d 8 false (BitVec.allOnes 2048) (ofLanes (resLane r))).flagFst 8 (flagsOf active)).retire)

def execVexp2 (m : BitVec 4) (d a : BitVec 5) (s : State) : Out := .next (vUn (fun e x => fExp2 e (f32 x)) 10 m d a s)
def execVlog2 (m : BitVec 4) (d a : BitVec 5) (s : State) : Out := .next (vUn (fun e x => fLog2 e (f32 x)) 10 m d a s)
def execVrcp (m : BitVec 4) (d a : BitVec 5) (s : State) : Out := .next (vUn (fun e x => fRcp e (f32 x)) 10 m d a s)
def execVrsq (m : BitVec 4) (d a : BitVec 5) (s : State) : Out := .next (vUn (fun e x => fRsq e (f32 x)) 10 m d a s)

/-- The place of a key in VSORT's ascending order (R174). -/
def sortKey (t : BitVec 2) (x : Half) : Nat :=
  match t.toNat with
  | 0 => f32Key x
  | 1 => (x.toInt + 2 ^ 31).toNat
  | _ => x.toNat

/-- VSORT (R174): the active lanes first, in stable key order, then the inactive ones. -/
def execVsort (m : BitVec 4) (t : BitVec 2) (d a : BitVec 5) (x o : BitVec 1) (s : State) : Out :=
  .next (s.unlent d fun s => s.readP m fun p s => s.readV a fun v s =>
    let key (i : Nat) : Nat := let k := sortKey t (lane v i); if o = 1 then 2 ^ 33 - k else k
    let l := sortBy key (activeLanes p) ++ activeLanes (~~~p)
    s.putLanes d 16 (BitVec.allOnes 64) fun i =>
      let j := l.getD i 0
      if x = 1 then ⟨j, 0⟩ else plain (lane v j))

/-- VPERM (R175). -/
def execVperm (m : BitVec 4) (d a b : BitVec 5) (s : State) : Out :=
  .next (s.unlent d fun s => s.readP m fun p s => s.readV a fun x s => s.readV b fun y s =>
    s.putLanes d 4 p fun i => plain (lane x ((lane y i).toNat % 64)))

/-- VBCAST (R175). -/
def execVbcast (m : BitVec 4) (d a : BitVec 5) (s : State) : Out :=
  .next (s.unlent d fun s => s.readP m fun p s => s.readS a fun x s => s.putLanes d 2 p fun _ => plain (x.setWidth 32))

/-- VGET (R175). -/
def execVget (t : BitVec 2) (d a b : BitVec 5) (s : State) : Out :=
  .next (s.readV a fun x s => s.readS b fun i s =>
    let v := lane x (i.toNat % 64)
    (s.writeS d 3 (if t = 1 then v.signExtend 64 else v.setWidth 64)).retire)

/-- One part of a complex product, formed exactly and rounded once (R176): the second product is subtracted for the real
part. -/
def cmulPart (e : FEnv) (a b c d : Half) (minus : Bool) : FRes :=
  let p := Num.mul (f32 a) (f32 b)
  let q := Num.mul (f32 c) (f32 d)
  let r := Num.add e.rm p.1 (if minus then q.1.negate else q.1)
  toF32 e r.1 ((f32 a).sig ||| (f32 b).sig ||| (f32 c).sig ||| (f32 d).sig ||| p.2 ||| q.2 ||| r.2)

/-- VCMUL (R176). -/
def execVcmul (m : BitVec 4) (d a b : BitVec 5) (s : State) : Out :=
  .next (s.unlent d fun s => s.readP m fun p s => s.readV a fun x s => s.readV b fun y s =>
    s.fenv fun e s =>
    s.putLanes d 5 (pairMask p) fun i =>
      let j := i / 2 * 2
      if i % 2 = 0 then cmulPart e (lane x j) (lane y j) (lane x (j + 1)) (lane y (j + 1)) true
      else cmulPart e (lane x j) (lane y (j + 1)) (lane x (j + 1)) (lane y j) false)

/-- VTWOSUM (R177): the sum to vd, its error to vd + 1, the flags of the sum only. -/
def execVtwosum (m : BitVec 4) (d a b : BitVec 5) (s : State) : Out :=
  .next (s.unlent d fun s => s.readP m fun p s => s.readV a fun x s => s.readV b fun y s =>
    s.fenv fun e s =>
    let r (i : Nat) : FRes × Nat := twoSum (f32 (lane x i)) (f32 (lane y i)) e
    (s.writeV (d + 1) 5 false (laneMask p) (ofLanes fun i => BitVec.ofNat 32 (r i).2)).putLanes d 5 p fun i => (r i).1)

/-- The address of one lane's element: window and region limit, alignment, and for an indexed access the window and region of
the base (R179, R180). -/
def lanePA (q n : Nat) (indexed : Bool) (base ea : Word) : Except Flt Nat :=
  match storeWin q ea n with
  | .error f => .error f
  | .ok pa =>
    if ea.toNat % n ≠ 0 then .error (wMisaligned ea)
    else if indexed && (wfld ea 60 4 ≠ wfld base 60 4 || (wfld base 60 4 = 11 && wfld ea 22 7 ≠ wfld base 22 7)) then
      .error (wLimit ea)
    else .ok pa

/-- The addresses of a list of lanes, or the fault of the first lane that fails. -/
def lanePAs (q n : Nat) (indexed : Bool) (base : Word) (offs : Nat → Nat) : List Nat → Except Flt (List Nat)
  | [] => .ok []
  | i :: is =>
    match lanePA q n indexed base (base + BitVec.ofNat 64 (offs i)) with
    | .error f => .error f
    | .ok pa =>
      match lanePAs q n indexed base offs is with
      | .error f => .error f
      | .ok l => .ok (pa :: l)

/-- The address of the lowest lane that reads POISON (R203, R366). -/
def State.poisonLane (s : State) (n : Nat) (base : Word) (offs : Nat → Nat) (ls : List Nat) (pas : List Nat) : Word :=
  match (ls.zip pas).find? fun e => s.poisoned (span e.2 n) with
  | some e => base + BitVec.ofNat 64 (offs e.1)
  | none => base

/-- A vector access's window is the own one: that of its lowest active lane, in whose window every active lane lies (R181). -/
def ownLanes (base : Word) (offs : Nat → Nat) : List Nat → Bool
  | [] => ownWindow base
  | i :: _ => ownWindow (base + BitVec.ofNat 64 (offs i))

/-- A vector load of n-byte elements (R179-R181): in the own window within lat, elsewhere interlocked. -/
def State.vload (s : State) (lat n : Nat) (signed indexed : Bool) (d : BitVec 5) (p base : Word) (offs : Nat → Nat) : State :=
  let ls := activeLanes p
  s.check (lanePAs s.q n indexed base offs ls) fun pas =>
    let as := pas.flatMap fun a => span a n
    if s.cx.speculative && !s.direct s.cur.ctx true as then s.block .speculation
    else
      let own := ownLanes base offs ls
      let s := if own then s else s.landSlot
      if !own && s.accessHeld as then s.stall
      else
      s.loadBytes (s.poisonLane n base offs ls pas) as fun bs s =>
        let vals := ls.zip ((chunks n 64 bs).map fun b => (loadValue n signed b).setWidth 32)
        (s.writeV d (if own then lat else 0) false (laneMask p) (ofLanes fun i => Sparse.get 0 vals i)).retire

/-- The later of two writes to one byte remains (R180). -/
def lastWins : List (Nat × Byte) → List (Nat × Byte)
  | [] => []
  | e :: es => if es.any fun o => o.1 = e.1 then lastWins es else e :: lastWins es

/-- The bytes of a vector store, in lane order. -/
def laneBytes (n : Nat) (v : VReg) (l : List (Nat × Nat)) : List (Nat × Byte) :=
  l.flatMap fun e => bytesAt e.2 n (lane v e.1).toNat

/-- A vector store of n-byte elements (R179-R181): in the own window it lands exactly after lat, elsewhere it is interlocked;
a speculative task's bytes outside its footprint and completion entries are buffered (R315). -/
def State.vstore (s : State) (kind : StoreKind) (lat n : Nat) (indexed : Bool) (v : VReg) (p base : Word) (idx : VReg)
    (offs : Nat → Nat) : State :=
  let ls := activeLanes p
  s.check (lanePAs s.q n indexed base offs ls) fun pas =>
    let all := laneBytes n v (ls.zip pas)
    let all := if indexed then lastWins all else all
    let spec := s.cx.speculative
    let out := all.filter fun e => spec && !s.direct s.cur.ctx true [e.1]
    let bytes := all.filter fun e => !(spec && !s.direct s.cur.ctx true [e.1])
    let own := ownLanes base offs ls
    let s := if own || !out.isEmpty then s else s.landSlot
    if (if own then s.held s.cur.ctx (all.map (·.1)) else s.accessHeld (all.map (·.1))) then s.stall
    else
      let go (s : State) : State :=
        if own then
          (s.storeOwn kind lat base p (if indexed then 0 else n) v (if indexed then idx else 0) bytes).retire
        else
          let s := s.landSlot
          ({ s with mem := writeAll s.mem bytes }.overwrite s.cur.ctx s.cur.entry (bytes.map fun (b : Nat × Byte) => b.1)).retire
      if out.isEmpty then go s else s.buffer (.write s.cur.entry out) go

/-- The element size of a VLD or VST (R179). -/
def elemSize (z : BitVec 2) : Nat := match z.toNat with | 0 => 4 | 1 => 2 | _ => 1

def execVld (m : BitVec 4) (d a : BitVec 5) (x : BitVec 1) (z : BitVec 2) (s : State) : Out :=
  .next (s.unlent d fun s => s.readP m fun p s => s.readS a fun base s =>
    s.vload 5 (elemSize z) (x = 1) false d p base fun i => elemSize z * i)

def execVst (m : BitVec 4) (d a : BitVec 5) (z : BitVec 2) (s : State) : Out :=
  .next (s.readP m fun p s => s.readS a fun base s => s.readV d fun v s =>
    s.vstore .vst 5 (elemSize z) false v p base 0 fun i => elemSize z * i)

def execVldx (m : BitVec 4) (d a b : BitVec 5) (s : State) : Out :=
  .next (s.unlent d fun s => s.readP m fun p s => s.readS a fun base s => s.readV b fun o s =>
    s.vload 8 4 false true d p base fun i => (lane o i).toNat)

def execVstx (m : BitVec 4) (d a b : BitVec 5) (s : State) : Out :=
  .next (s.readP m fun p s => s.readS a fun base s => s.readV d fun v s => s.readV b fun o s =>
    s.vstore .vstx 8 4 true v p base o fun i => (lane o i).toNat)

/-- Set the lend state of a bank from the entry after c on (R164, R182). -/
def Ctx.lendBank (x : Ctx) (c n : Nat) (e : Option Eng) : Ctx := { x with lend := x.lend.set n ⟨e, (x.bank n).at c, c⟩ }

/-- Some V or T result issued at entry c or below for a register of a bank is not yet seen by slot V at entry c (R183). -/
def Ctx.bankPending (x : Ctx) (c n : Nat) : Bool :=
  x.v.any fun e => e.1 / 8 = n &&
    (e.2.pend.any (fun k => k.entry ≤ c && seenBy x.syncs .v k.slot k.entry k.lat k.land k.exact c ≠ .new) ||
      e.2.landed.any (fun k => seenBy x.syncs .v k.slot k.entry k.lat k.land k.exact c ≠ .new))

/-- VLEND (R182, R183). -/
def execVlend (n : BitVec 2) (k : BitVec 1) (s : State) : Out :=
  .next (
    if ((s.cx.bank n.toNat).at s.cur.entry).isSome || s.cx.bankPending s.cur.entry n.toNat then s.raise (flt 0x07 0 0 0)
    else (s.modCx fun x => x.lendBank s.cur.entry n.toNat (some (if k = 0 then .ma else .mb))).retire)

/-- VRECL (R182, R183). -/
def execVrecl (n : BitVec 2) (s : State) : Out :=
  .next (
    if ((s.cx.bank n.toNat).at s.cur.entry).isNone then s.raise (flt 0x07 0 0 0)
    else (s.modCx fun x => x.lendBank s.cur.entry n.toNat none).retire)

end Sys2Proof.Machine
end

