-- ==== Sys2Proof/Machine/Matrix.lean ====
section
/-! DEFINITION. The matrix engines: operands, pushes, MZERO, MFILL, MDRAIN, MFMT and MNOP (R110-R112, R220-R247). -/

namespace Sys2Proof.Machine

/-- The engine of an e bit (R76), and the first of its shape registers. -/
def engOf (k : BitVec 1) : Eng := if k = 0 then .ma else .mb
def engShape (k : BitVec 1) (h : BitVec 2) : Nat := 4 * k.toNat + h.toNat

/-- The format state and the scale buffer of an engine. -/
def Ctx.fmt (x : Ctx) : Eng → FmtSt
  | .ma => x.fmtA
  | .mb => x.fmtB
def Ctx.setFmt (x : Ctx) (e : Eng) (f : FmtSt) : Ctx :=
  match e with
  | .ma => { x with fmtA := f }
  | .mb => { x with fmtB := f }
def Ctx.scale (x : Ctx) : Eng → Cell 4096
  | .ma => x.scaleA
  | .mb => x.scaleB

/-- The pair in force at an entry: an MFMT at c sets it from c + 2 on (R243). -/
def FmtSt.at (f : FmtSt) (e : Nat) : MFmt × MFmt := if f.since + 2 ≤ e then f.now else f.before

/-- Bits of an element. -/
def MFmt.bits : MFmt → Nat
  | .fp32 => 32 | .bf16 => 16 | .fp16 => 16 | .e4m3 => 8 | .e5m2 => 8 | .e2m1 => 4 | .int8 => 8 | .d8 => 8

/-- The exact value of an element code, after the flush of R103 (R110). -/
def MFmt.value (f : MFmt) (fzn : Bool) (x : Nat) : Num :=
  match f with
  | .fp32 => FF.fp32.decode x
  | .bf16 => FF.bf16.decode x
  | .fp16 => FF.fp16.decode x
  | .e4m3 => FF.e4m3.operand fzn x
  | .e5m2 => FF.e5m2.operand fzn x
  | .e2m1 => FF.e2m1.decode x
  | .int8 => intNum (BitVec.ofNat 8 x).toInt
  | .d8 => d8Num x

/-- The depth K of a pair, and which operands take scales under v = 1 (R222). -/
def pairDepth : MFmt × MFmt → Nat
  | (.fp32, _) => 2
  | (.bf16, _) => 8
  | (.fp16, _) => 8
  | (.e2m1, _) => 32
  | (_, .d8) => 32
  | _ => 16
def pairScales : MFmt × MFmt → Bool × Bool
  | (.e4m3, _) => (true, true)
  | (.e5m2, _) => (true, true)
  | (.e2m1, _) => (true, true)
  | (.int8, .d8) => (false, true)
  | _ => (false, false)

/-- The line length in bytes of an operand of depth k (R222). -/
def lineLen (f : MFmt) (k : Nat) : Nat := k * f.bits / 8

/-- The check of R226 of one operand: shape, window, alignment and limit, in this order; the offsets of its lines or elements
in the scratchpad. terms are their footprint terms, lam is Λ. -/
def enginePlace (v : ShapeBits) (lam : Int) (es : Nat) (bounds : List Nat) (terms : List Int) : Except Flt (List Nat) :=
  let base := shBase v
  if shEs v ≠ es || shBounds v ≠ bounds then .error (wShape base)
  else if wfld base 60 4 ≠ 8 || wfld base 22 38 ≠ 0 then .error (wWindow base)
  else
    let start : Int := (wfld base 0 22 : Int) + lam
    let offs := terms.map (start + ·)
    let addr (o : Int) : Word := BitVec.ofInt 64 (2 ^ 63 + o)
    match offs.find? (fun (o : Int) => o % (es : Int) ≠ 0), offs.find? (fun (o : Int) => o < 0 || 2 ^ 22 < o + (es : Int)) with
    | some o, _ => .error (wMisaligned (addr o))
    | none, some o => .error (wLimit (addr o))
    | none, none => .ok (offs.map Int.toNat)

/-- n lines of an operand (R225). -/
def placeLines (v : ShapeBits) (lam : Int) (es n : Nat) : Except Flt (List Nat) :=
  enginePlace v lam es [n, 1, 1, 1, 1, 1] ((List.range n).map fun (l : Nat) => (l : Int) * shStride v 0)

/-- The 64 × 64 elements of a drain's destination or a fill's source, row by row (R225). -/
def placeTile (v : ShapeBits) (lam : Int) (es : Nat) : Except Flt (List Nat) :=
  enginePlace v lam es [64, 64, 1, 1, 1, 1]
    ((List.range 64).flatMap fun (r : Nat) => (List.range 64).map fun (c : Nat) => (c : Int) * shStride v 0 + (r : Int) * shStride v 1)

/-- The bank group of an offset (R227). -/
def bankGroup (o : Nat) : Nat := o / 2 ^ 21

/-- The bank-group rule: A in one group, B in the other (R227); the first byte that breaks it (R366). -/
def bankCheck (a : List Nat) (la : Nat) (b : List Nat) (lb : Nat) : Except Flt Unit :=
  let ga := bankGroup (a.headD 0)
  let bytes (l : List Nat) (n : Nat) : List Nat := l.flatMap fun o => [o, o + n - 1]
  match (bytes a la).find? (fun o => bankGroup o ≠ ga), (bytes b lb).find? (fun o => bankGroup o = ga) with
  | some o, _ => .error (flt 0x04 0 (ownAddr o) 0)
  | none, some o => .error (flt 0x04 0 (ownAddr o) 0)
  | none, none => .ok ()

/-- The rows of 64 words that bytes make. -/
def tileOf (bs : List Byte) : Tile := chunks 64 64 ((chunks 4 4096 bs).map fun b => BitVec.ofNat 32 (leNat b))

/-- The bytes of a tile. -/
def tileBytes (t : Tile) : List Byte := t.flatMap fun r => r.flatMap fun x => leBytes 4 x.toNat

/-- An accumulator tile of a core. -/
def State.tile (s : State) (q t : Nat) : Tile := tileOf (rangeBytes s.mem (tilePA q t 0) 16384)

/-- Set an accumulator tile. -/
def State.setTile (s : State) (q t : Nat) (v : Tile) : State := { s with mem := writeBytes s.mem (tilePA q t 0) (tileBytes v) }

/-- A tile whose contents the manual does not specify holds free values (R230, R240). -/
def State.freeTile (s : State) (q t : Nat) : State :=
  { s with mem := writeBytes s.mem (tilePA q t 0) (freeBytes 16384 s.free), free := s.free + 16384 }

/-- A tile of +0. -/
def zeroTile : Tile := List.replicate 64 (List.replicate 64 0)

/-- Element (r, c) of a tile. -/
def Tile.elem (t : Tile) (r c : Nat) : Half := (t.getD r []).getD c 0

/-- The mark of an MDRAIN's read among the updates of its tile (R241). -/
def TileUpd.reads (u : TileUpd) : Bool :=
  match u.fn with
  | .read => true
  | _ => false

/-- A sync bundle lies after entry e, up to entry c. -/
def syncAfter (syncs : List Nat) (e c : Nat) : Bool := syncs.any fun b => e < b && b ≤ c

/-- An operation at entry c on a tile in engine e is ordered after an update (R240), an update after an MDRAIN's read (R241). -/
def TileUpd.before (syncs : List Nat) (u : TileUpd) (e : Eng) (c : Nat) (drain : Bool) : Bool :=
  if u.reads then u.eng = e || syncAfter syncs u.entry c
  else if u.eng = e then !drain || u.entry + u.bound + 1 ≤ c
  else syncCovers syncs u.entry u.bound c

/-- Every later operation on the tile, in either engine, is ordered after an update or a read. -/
def TileUpd.settled (syncs : List Nat) (u : TileUpd) (c : Nat) : Bool :=
  if u.reads then syncAfter syncs u.entry c
  else u.entry + u.bound + 1 ≤ c && syncCovers syncs u.entry u.bound c

/-- An M syllable is complete after its bound B (R239, R245). -/
def State.doneM (s : State) (b : Nat) : State :=
  s.modCx fun x => { x with mdone := x.mdone.filter (fun k => x.low ≤ k.2) ++ [(s.cur.entry, s.cur.entry + b)] }

/-- The windows of two contexts that hold tasks overlap at a tile (R245). -/
def State.sharedTile (s : State) (t : Nat) : Bool :=
  [0, 1, 2, 3].any fun i =>
    let c := 4 * s.q + i
    let w := partWindow (ctlPart ((s.ctx c).csrCell csrCTL).settled)
    c ≠ s.cur.ctx && (s.ctx c).task.isSome && w.1 ≤ t && t < w.1 + w.2

/-- The partition check (R232, R244); the syllable's CTL goes on. The contents of a tile that another context's window shares are not
specified: each M syllable finds free values there (R245; log 93). -/
def State.inPart (s : State) (t : BitVec 6) (k : Word → State → State) : State :=
  s.readCell (s.cx.csrCell csrCTL) fun ctl s =>
    let w := partWindow (ctlPart ctl)
    if w.1 ≤ t.toNat && t.toNat < w.1 + w.2 then k ctl (if s.sharedTile t.toNat then s.freeTile s.q t.toNat else s)
    else s.raise (flt 0x08 0 0 0)

/-- The exact sum of a list of numbers; a NaN, or infinities of both signs, make a NaN (R110). -/
def exactSum (l : List Num) : Num :=
  let d := l.foldl (fun (a : Dy) n => match n with | .fin g m e => a.add (dyOf g m e) | _ => a) ⟨0, 0⟩
  let pos := l.any fun n => n = .inf false
  let neg := l.any fun n => n = .inf true
  if l.any Num.isNan || (pos && neg) then .nan false
  else if pos then .inf false
  else if neg then .inf true
  else d.num false

/-- RoundNE to FP32 without flags, an infinity on overflow (R110). -/
def rne (n : Num) : Half := BitVec.ofNat 32 (FF.fp32.convert ⟨0, false, false⟩ n).bits

/-- A finite zero sum is +0. -/
def rneSum (n : Num) : Half :=
  match n with
  | .fin _ 0 _ => 0
  | n => rne n

/-- One element of a push with its exact sum S (R110). -/
def pushElem (x : Half) (s : Num) : Half := rneSum (exactSum [f32 x, f32 (rneSum s)])

/-- The exact sum of products of two lines, negated for op 001. -/
def dotLines (a b : List Num) (sub : Bool) : Num :=
  let s := exactSum (List.zipWith (fun x y => (Num.mul x y).1) a b)
  if sub then s.negate else s

/-- The K elements of a line, each with its block scale (R109, R222); sc gives the scale code of block b. -/
def lineElems (f : MFmt) (fzn : Bool) (k : Nat) (sc : Option (Nat → Nat)) (line : Nat) : List Num :=
  (List.range k).map fun i =>
    let v := f.value fzn (fld line (f.bits * i) f.bits)
    match sc with
    | some g => v.block (g (i / 8))
    | none => v

/-- An MMA or MMAV update of a tile from the numbers of the lines (R110, R111). -/
def pushTile (int zero sub : Bool) (a b : List (List Num)) (t : Tile) : Tile :=
  List.zipWith (fun ra rt => List.zipWith (fun cb x =>
    let x := if zero then 0 else x
    let s := dotLines ra cb sub
    if int then
      match s with
      | .fin n m _ => x + BitVec.ofInt 32 (if n then -(m : Int) else m)
      | _ => x
    else pushElem x s) b rt) a t

/-- The compensated update of one part: hi and lo (R112). -/
def compensate (hi lo : Half) (s : Num) : Half × Half :=
  match exactSum [f32 hi, f32 lo, s] with
  | .nan _ => (BitVec.ofNat 32 FF.fp32.nan, 0)
  | v =>
    let h := rneSum v
    match f32 h with
    | .inf _ => (h, 0)
    | n => (h, rneSum (exactSum [v, n.negate]))

/-- The exact parts of a complex dot product of two lines of real and imaginary elements (R112). -/
def complexDot (a b : List Num) (imag : Bool) : Num :=
  let at' (l : List Num) (i : Nat) : Num := l.getD i (.fin false 0 0)
  let p (i j : Nat) : Num := (Num.mul (at' a i) (at' b j)).1
  if imag then exactSum [p 0 1, p 1 0, p 2 3, p 3 2]
  else exactSum [p 0 0, (p 1 1).negate, p 2 2, (p 3 3).negate]

/-- The MCMA update of a tile: hi parts in rows 0 to 31, lo parts in rows 32 to 63 (R112, R233). -/
def mcmaTile (zero sub : Bool) (a b : List (List Num)) (t : Tile) : Tile :=
  let pair (i c : Nat) : Half × Half :=
    let s := complexDot (a.getD i []) (b.getD (c / 2) []) (c % 2 = 1)
    let s := if sub then s.negate else s
    if zero then compensate 0 0 s else compensate (t.elem i c) (t.elem (32 + i) c) s
  let rows := (List.range 32).map fun i => (List.range 64).map (pair i)
  rows.map (fun r => r.map (·.1)) ++ rows.map (fun r => r.map (·.2))

/-- Drains of one engine that match a test land at the entry in issue (R229, R370). -/
def State.landDrains (s : State) (e : Eng) (test : StoreRec → Bool) : State :=
  let hit (r : StoreRec) : Bool := match r.kind with
    | .mdrain d => d.eng = e && !r.landed && test r
    | _ => false
  if s.cx.stores.any hit then
    (s.modCx fun x => { x with stores := updWhere hit (fun r => { r with land := s.cur.entry }) x.stores }).landStores s.cur.ctx hit
  else s

/-- An engine's read of its own scratchpad at issue (R229, R230): a move that holds the bytes stalls it, a speculative task
stays within its footprint and completion entries (R315), POISON and an uncorrectable error (R378) end the context with what the
syllable would have filled unspecified. -/
def State.engineRead (s : State) (e : Option Eng) (as : List Nat) (spoil : State → State) (k : List Byte → State → State) :
    State :=
  if s.held s.cur.ctx as then s.stall
  else if s.cx.speculative && !s.direct s.cur.ctx true as then s.block .speculation
  else
    match as.find? fun a => s.poisoned [a] with
    | some a => (spoil s).raiseLate 0x20 3 (ownAddr (a - spadPA s.q 0))
    | none =>
      if s.struck.isSome then (spoil s).raiseStruck 0 (ownAddr (as.headD (spadPA s.q 0) - spadPA s.q 0)) (s.struck.getD true)
      else
      let s := match e with
        | some e => s.landDrains e fun r => r.entry < s.cur.entry && r.bytes.any fun b => as.contains b.1
        | none => s
      k (engineBytes s.cx s.cur.entry s.mem as) s

/-- The bytes of lines at offsets of the own scratchpad. -/
def lineAddrs (q len : Nat) (offs : List Nat) : List Nat := offs.flatMap fun o => span (spadPA q o) len

/-- Note the push of an engine, for MFMT (R243). -/
def State.notePush (s : State) (e : Eng) : State :=
  s.modCx fun x => x.setFmt e { x.fmt e with lastPush := some s.cur.entry }

/-- The scale code of block b of line l (R234): A scales from byte 0, B scales from byte 256. -/
def scaleAt (buf : ScaleBuf) (base l b : Nat) : Nat := (buf.extractLsb' (8 * (base + 4 * l + b)) 8).toNat

/-- The lines of an operand as numbers. -/
def operandLines (f : MFmt) (fzn : Bool) (k : Nat) (buf : Option (ScaleBuf × Nat)) (lines : List Nat) : List (List Num) :=
  lines.mapIdx fun l x => lineElems f fzn k (buf.map fun b => scaleAt b.1 b.2 l) x

/-- The update of an MMA or MMAV from its two operands' lines. -/
def pushFun (pair : MFmt × MFmt) (fzn v zero sub : Bool) (buf : ScaleBuf) (la lb : List Nat) : Tile → Tile :=
  let k := pairDepth pair
  let sc := pairScales pair
  pushTile (pair = (.int8, .int8)) zero sub
    (operandLines pair.1 fzn k (if v && sc.1 then some (buf, 0) else none) la)
    (operandLines pair.2 fzn k (if v && sc.2 then some (buf, 256) else none) lb)

/-- A tile after an update (R232-R237). -/
def TileFn.apply : TileFn → Tile → Tile
  | .read, t => t
  | .set v, _ => v
  | .push pair fzn scaled zero sub buf a b, t => pushFun pair fzn scaled zero sub buf a b t
  | .mcma zero sub a b, t => mcmaTile zero sub (operandLines .fp32 false 4 none a) (operandLines .fp32 false 4 none b) t

/-- Updates applied to a tile in order, each with the tile before it. -/
def replay : Tile → List TileUpd → List TileUpd × Tile
  | t, [] => ([], t)
  | t, u :: us =>
    let r := replay (u.fn.apply t) us
    ({ u with old := t } :: r.1, r.2)

/-- The element size and the narrow format of a drain code (R77, R225, R238). -/
def drainFmt (d : BitVec 3) : Option FF × Nat :=
  match d.toNat with
  | 1 => (some .bf16, 2)
  | 2 => (some .fp16, 2)
  | 3 => (some .e4m3, 1)
  | 4 => (some .e5m2, 1)
  | _ => (none, 4)

/-- A drained element (R238). -/
def drainElem (d : BitVec 3) (e : FEnv) (x : Half) : Nat :=
  match (drainFmt d).1 with
  | some f => (f.convert e (f32 x)).bits
  | none => x.toNat

/-- The bytes that a drain of a tile writes in the scratchpad of core q: where two elements have one destination the later in row order
stays (R238; log 78). -/
def Drain.bytes (d : Drain) (q : Nat) (t : Tile) : List (Nat × Byte) :=
  let es := (drainFmt d.code).2
  let env : FEnv := ⟨ctlRm d.ctl, ctlSat d.ctl, ctlFzn d.ctl⟩
  match placeTile d.shape d.lam es with
  | .error _ => []
  | .ok offs => lastWins ((offs.zip (t.flatMap fun r => r.map (drainElem d.code env))).flatMap fun o => bytesAt (spadPA q o.1) es o.2)

/-- Bytes with the values that a table gives their addresses. -/
def refill (l tbl : List (Nat × Byte)) : List (Nat × Byte) := l.map fun e => (e.1, ((tbl.find? fun k => k.1 = e.1).map (·.2)).getD e.2)

/-- The drain of a read whose writes have not landed, and that no commit has performed: it may still read the tile anew. -/
def Drain.open (d : Drain) (n : Nat) (u : TileUpd) : Bool := u.reads && d.eng = u.eng && n = u.entry
def Ctx.drainOpen (x : Ctx) (u : TileUpd) : Bool :=
  (x.stores.any fun r => match r.kind with
    | .mdrain d => !r.landed && d.open r.entry u
    | _ => false) ||
  (x.task.elim [] (·.effects)).any fun k => match k with
    | .drain n d _ => d.open n u
    | _ => false

/-- Where an operation on a tile at the entry in issue stands: after the last one that it is ordered after, and before or after each
one of the other engine that it is not ordered with (R240, R241). A read whose writes have landed has read: what is later comes after it.
What stands before it; it and what follows, each with the tile before it; the tile that results. -/
def State.placed (s : State) (t : Nat) (e : Eng) (bound : Nat) (f : TileFn) : List TileUpd × List TileUpd × Tile :=
  let x := s.cx
  let c := s.cur.entry
  let mine := x.tiles.filter fun u => u.tile = t
  let rev := mine.reverse.takeWhile fun u => !(u.before x.syncs e c false || (u.reads && !x.drainOpen u))
  let n := rev.length
  let k := if n = 0 then 0 else (Config.freeBits 64 s.free).toNat % (n + 1)
  let back := (rev.take k).reverse
  let start := match back with
    | u :: _ => u.old
    | [] => s.tile s.q t
  (mine.take (mine.length - k), replay start (⟨t, e, c, bound, f, []⟩ :: back))

/-- Note what is placed on a tile; what no later operation can come before goes. -/
def State.notePlaced (s : State) (t : Nat) (l : List TileUpd) : State :=
  { s.modCx (fun x =>
      { x with tiles := (x.tiles.filter fun u => u.tile ≠ t) ++
          (l.dropWhile fun u => u.reads && !x.drainOpen u).filter fun u => !u.settled x.syncs x.low }) with
    free := s.free + 1 }

/-- Reads that an update has come before read the tile anew (R241). -/
def State.redrain (s : State) (l : List TileUpd) : State :=
  let q := s.q
  let anew (n : Nat) (d : Drain) (b : List (Nat × Byte)) : List (Nat × Byte) :=
    match l.find? (d.open n) with
    | some u => refill b (d.bytes q u.old)
    | none => b
  let rec' (r : StoreRec) : StoreRec := match r.kind with
    | .mdrain d => if r.landed then r else { r with bytes := anew r.entry d r.bytes }
    | _ => r
  let eff (k : Effect) : Effect := match k with
    | .drain n d b => .drain n d (anew n d b)
    | k => k
  if l.any (·.reads) then
    s.modCx fun x => { x with stores := x.stores.map rec', task := x.task.map fun t => { t with effects := t.effects.map eff } }
  else s

/-- An update of a tile by an engine with its bound (R239-R241). -/
def State.updateTile (s : State) (t : Nat) (e : Eng) (bound : Nat) (f : TileFn) : State :=
  let r := s.placed t e bound f
  (((s.setTile s.q t r.2.2).redrain r.2.1).notePlaced t (r.1 ++ r.2.1))

/-- A push takes effect: its update, exchanges, its entry for MFMT and for PART. -/
def State.finishPush (s : State) (t : Nat) (e : Eng) (f : TileFn) (xs : List Exchange) : State :=
  (((((s.updateTile t e 24 f).exchange xs).notePush e).doneM 24).retire)

/-- The writes of a register by syllables at entries below e. -/
def Cell.below {w : Nat} (c : Cell w) (e : Nat) : Cell w :=
  { c with landed := c.landed.filter fun k => k.entry < e, pend := c.pend.filter fun k => k.entry < e }

/-- The scale buffer that a push reads when v = 1: before any SLD at its entry or above (R235). -/
def State.readScale (s : State) (e : Eng) (v : BitVec 1) (k : ScaleBuf → State → State) : State :=
  if v = 1 then s.readBy Cell.readInOrder ((s.cx.scale e).below s.cur.entry) k else k 0 s

/-- Read the shape registers of both operands; one named twice is exchanged once (R231). -/
def State.readPair (s : State) (ra rb : Nat) (w : Bool) (k : ShapeBits → ShapeBits → List Exchange → State → State) : State :=
  s.readShape ra w fun va xa s =>
    if ra = rb then k va va xa s else s.readShape rb w fun vb xb s => k va vb (xa ++ xb) s

/-- MMA (R231-R233). A's checks come before B's (DESIGN CHOICE, log 92). -/
def execMma (g : BitVec 4) (w : BitVec 1) (t : BitVec 6) (a b : BitVec 2) (z v k : BitVec 1) (p : BitVec 3) (s : State) : Out :=
  .next (s.guardUnit g fun s => s.inPart t fun ctl s =>
    let e := engOf k
    let pair := (s.cx.fmt e).at s.cur.entry
    let sc := pairScales pair
    if v = 1 && !(sc.1 || sc.2) then s.raise (flt 0x09 1 0 0)
    else s.readPair (engShape k a) (engShape k b) (w = 1) fun va vb xs s =>
      let la := lineLen pair.1 (pairDepth pair)
      let lb := lineLen pair.2 (pairDepth pair)
      s.check (placeLines va (s.lambda g va) la 64) fun oa =>
      s.check (placeLines vb (s.lambda g vb) lb 64) fun ob =>
      s.check (bankCheck oa la ob lb) fun _ =>
        s.engineRead (some e) (lineAddrs s.q la oa ++ lineAddrs s.q lb ob) (fun s => s.freeTile s.q t.toNat) fun bs s =>
          s.readScale e v fun buf s =>
            let lines (n : Nat) (l : List Byte) : List Nat := (chunks n 64 l).map leNat
            s.finishPush t.toNat e
              (.push pair (ctlFzn ctl) (v = 1) (z = 1) (p = 1) buf (lines la (bs.take (64 * la))) (lines lb (bs.drop (64 * la)))) xs)

/-- Line i of A in a lent bank of 2 KiB (R228). -/
def bankLine (x : Ctx) (n es i : Nat) : Nat :=
  fld ((x.vreg (8 * n + i * es / 256)).settled).toNat (8 * (i * es % 256)) (8 * es)

/-- MMAV (R228, R231-R233). -/
def execMmav (g : BitVec 4) (w : BitVec 1) (t : BitVec 6) (a b : BitVec 2) (z v k : BitVec 1) (p : BitVec 3) (s : State) : Out :=
  .next (s.guardUnit g fun s => s.inPart t fun ctl s =>
    let e := engOf k
    let pair := (s.cx.fmt e).at s.cur.entry
    let sc := pairScales pair
    if v = 1 && !(sc.1 || sc.2) then s.raise (flt 0x09 1 0 0)
    else if (s.cx.bank a.toNat).at s.cur.entry ≠ some e then s.raise (flt 0x07 0 0 0)
    else s.readShape (engShape k b) (w = 1) fun vb xs s =>
      let la := lineLen pair.1 (pairDepth pair)
      let lb := lineLen pair.2 (pairDepth pair)
      s.check (placeLines vb (s.lambda g vb) lb 64) fun ob =>
        s.engineRead (some e) (lineAddrs s.q lb ob) (fun s => s.freeTile s.q t.toNat) fun bs s =>
          s.readScale e v fun buf s =>
            s.finishPush t.toNat e
              (.push pair (ctlFzn ctl) (v = 1) (z = 1) (p = 1) buf ((List.range 64).map (bankLine s.cx a.toNat la))
                ((chunks lb 64 bs).map leNat)) xs)

/-- MCMA (R112, R231-R233). -/
def execMcma (g : BitVec 4) (w : BitVec 1) (t : BitVec 6) (a b : BitVec 2) (z k : BitVec 1) (p : BitVec 3) (s : State) : Out :=
  .next (s.guardUnit g fun s => s.inPart t fun _ s =>
    let e := engOf k
    if (s.cx.fmt e).at s.cur.entry ≠ (.fp32, .fp32) then s.raise (flt 0x09 1 0 0)
    else s.readPair (engShape k a) (engShape k b) (w = 1) fun va vb xs s =>
      s.check (placeLines va (s.lambda g va) 16 32) fun oa =>
      s.check (placeLines vb (s.lambda g vb) 16 32) fun ob =>
      s.check (bankCheck oa 16 ob 16) fun _ =>
        s.engineRead (some e) (lineAddrs s.q 16 oa ++ lineAddrs s.q 16 ob) (fun s => s.freeTile s.q t.toNat) fun bs s =>
          let l := (chunks 16 64 bs).map leNat
          s.finishPush t.toNat e (.mcma (z = 1) (p = 1) (l.take 32) (l.drop 32)) xs)

/-- MZERO (R237). -/
def execMzero (g : BitVec 4) (t : BitVec 6) (k : BitVec 1) (s : State) : Out :=
  .next (s.guardUnit g fun s => s.inPart t fun _ s =>
    ((s.updateTile t.toNat (engOf k) 1 (.set zeroTile)).doneM 1).retire)

/-- MFILL (R237). -/
def execMfill (g : BitVec 4) (w : BitVec 1) (t : BitVec 6) (a : BitVec 2) (k : BitVec 1) (s : State) : Out :=
  .next (s.guardUnit g fun s => s.inPart t fun _ s =>
    s.readShape (engShape k a) (w = 1) fun va xs s =>
      s.check (placeTile va (s.lambda g va) 4) fun oa =>
        s.engineRead (some (engOf k)) (lineAddrs s.q 4 oa) (fun s => s.freeTile s.q t.toNat) fun bs s =>
          ((((s.updateTile t.toNat (engOf k) 16 (.set (tileOf bs))).exchange xs).doneM 16).retire))

/-- At most two drains of an engine are in flight: a third lands the older (R370). -/
def State.limitDrains (s : State) (e : Eng) : State :=
  let live := s.cx.stores.filter fun r => match r.kind with
    | .mdrain d => d.eng = e && !r.landed
    | _ => false
  match live with
  | a :: _ :: _ => s.landDrains e fun r => r.entry = a.entry
  | _ => s

/-- MDRAIN (R238): reads the tile at its issue; its writes land exactly at e + 16. An update of the same tile in the same bundle is
not earlier (DESIGN CHOICE, log 77). -/
def execMdrain (g : BitVec 4) (w : BitVec 1) (t : BitVec 6) (a : BitVec 2) (z k : BitVec 1) (d : BitVec 3) (s : State) : Out :=
  .next (s.guardUnit g fun s => s.inPart t fun ctl s =>
    let e := engOf k
    let c := s.cur.entry
    if s.cx.tiles.any fun u => u.tile = t.toNat && !u.reads && u.entry < c && !u.before s.cx.syncs e c true then s.raise (flt 0x09 4 0 0)
    else s.readShape (engShape k a) (w = 1) fun va xs s =>
      let es := (drainFmt d).2
      let dr : Drain := ⟨e, t.toNat, d, ctl, va, s.lambda g va⟩
      s.check (placeTile va dr.lam es) fun offs =>
        if s.held s.cur.ctx (lineAddrs s.q es offs) then s.stall
        else
          let r := s.placed t.toNat e 0 .read
          let all := dr.bytes s.q ((r.2.1.head?.map (·.old)).getD [])
          let spec := s.cx.speculative
          let out := all.filter fun b => spec && !s.direct s.cur.ctx true [b.1]
          let own := all.filter fun b => !(spec && !s.direct s.cur.ctx true [b.1])
          let go (s : State) : State :=
            let s := (s.limitDrains e).storeOwn (.mdrain dr) 16 (shBase va) 0 0 (va.setWidth 2048) 0 own
            let s := s.notePlaced t.toNat (r.1 ++ r.2.1)
            let s := if z = 1 then s.updateTile t.toNat e 16 (.set zeroTile) else s
            ((s.exchange xs).doneM 16).retire
          if out.isEmpty then go s else s.buffer (.drain c dr out) go)

/-- MFMT (R243): the pair holds from entry c + 2; the next entry owes an MNOP. -/
def execMfmt (g : BitVec 4) (a b : BitVec 3) (k : BitVec 1) (s : State) : Out :=
  .next (s.guardUnit g fun s =>
    let e := engOf k
    let f := s.cx.fmt e
    let c := s.cur.entry
    let busy := match f.lastPush with
      | some p => p < c && c < p + 25
      | none => false
    if busy then s.raise (flt 0x09 2 0 0)
    else ((s.modCx fun x => x.setFmt e { f with now := (mfmtOf a, mfmtOf b), before := f.at (c + 1), since := c, owed := some (c + 1) }).doneM 2).retire)

/-- MNOP (R242). -/
def execMnop (g : BitVec 4) (_k : BitVec 1) (s : State) : Out := .next (s.guardUnit g fun s => s.retire)

end Sys2Proof.Machine
end

