-- ==== Sys2Proof/Machine/TileMove.lean ====
section
/-! DEFINITION. The X syllables and the completion of tile moves (R196, R203-R219, R271-R278, R343, R398). -/

namespace Sys2Proof.Machine

/-- Numbers that the landing entry of a move's status takes until a TWAIT covers it (R211): one per move and shape register; a PREQ
has h = 4. -/
def statusLand (id h : Nat) : Nat := statusBase + 8 * id + h

/-- The physical number of a completion entry (R210). -/
def complPA (c h : Nat) : Nat := spadPA (coreOf c) (complOff c h)

/-- An earlier TLDF of the task that waits for publication holds the X queue (R204). -/
def State.waitingTldf (s : State) (c uid : Nat) : Option Move := s.moves.find? fun m => m.ctx = c && m.uid = uid && !s.flowReady m

/-- Go on unless the X queue is held; the hold is a stall (R204). -/
def State.xFree (s : State) (k : State → State) : State :=
  if (s.waitingTldf s.cur.ctx s.cx.uid).isSome then s.stall else k s

/-- A move with nothing in it, for a syllable of the context in issue. -/
def State.newMove (s : State) (kind : MoveKind) (h : Nat) (f : Foot) : Move :=
  { id := s.nextId, ctx := s.cur.ctx, uid := s.cx.uid, h := h, kind := kind, entry := s.cur.entry, es := f.es, n := f.n, n0 := f.n0
    src := [], dst := [], objs := [], ends := [], flow := none, folds := [], mask := 0, soft := false, gone := false
    broken := false, quiet := false, asked := false, sent := false, passed := 0, code := 0, data := none, pages := [], vread := [], vwrite := [], pasid := s.cx.pasid, addr := 0 }

/-- The 4 KiB pages of window 0x0 that bytes lie in. -/
def vpages (l : List PByte) : List Nat :=
  (l.filterMap fun b => match b with | .virt va _ => some (va / 4096) | _ => none).eraseDups

/-- The move with its ends. -/
def Move.between (m : Move) (src dst : EndPt) : Move :=
  { m with
    src := src.bytes
    dst := dst.bytes
    objs := src.obj.toList ++ dst.obj.toList
    ends := ((src.runs ++ dst.runs).map fun r => (r.1, r.2.1)).eraseDups
    gone := src.gone || dst.gone
    vread := vpages src.bytes
    vwrite := vpages dst.bytes }

/-- The status predicate of a move is pending from its issue on; it lands when a TWAIT covers it (R208, R211). -/
def State.pendStatus (s : State) (p : BitVec 4) (h : Nat) : State :=
  if p = 0 then s
  else
    let l := statusLand s.nextId h
    s.modCx fun x => { x with p := Sparse.put x.p p.toNat ((x.preg p.toNat).push ⟨.x, s.cur.entry, l, l, false, 0, 0⟩) }

/-- A tile move issues (R210, R332): its objects count it, its completion word is EMPTY, its status is pending. -/
def State.issueMove (s : State) (m : Move) (p : BitVec 4) (xs : List Exchange) : State :=
  let s := m.objs.foldl State.countIn s
  let s := if m.h < 4 then { s with tags := setTag s.tags (complPA m.ctx m.h) tagEmpty } else s
  let s := s.pendStatus p m.h
  ({ s with moves := s.moves ++ [m], nextId := s.nextId + 1 }.exchange xs).retire

/-- A status write with its value. -/
def Write.answer (id h : Nat) (v : Word) (k : Write 64) : Write 64 :=
  if k.slot = .x && k.land = statusLand id h then { k with mask := BitVec.allOnes 64, val := v } else k

/-- Set the status of a move wherever its task stands: in a context, under a handler, or saved (R208). -/
def State.setStatus (s : State) (c uid id h : Nat) (v : Word) : State :=
  let upd (x : Ctx) : Ctx :=
    if x.uid = uid then
      { x with
        p := x.p.map fun e => (e.1, { e.2 with pend := e.2.pend.map (Write.answer id h v) })
        saved := x.saved.map fun u => { u with preds := u.preds.map fun e => (e.1, e.2.answer id h v) } }
    else x
  { s.modCtx c upd with saved := s.saved.map fun t => { t with ctx := upd t.ctx } }

/-- A completing move updates its completion entry (R210). Bits that software has left in word 0's zero fields stay (R11; log 88). -/
def State.finishEntry (s : State) (m : Move) (cause nres gone mcfail : Nat) (resmask failmask : Word) : State :=
  if 4 ≤ m.h then s
  else
    let a := complPA m.ctx m.h
    let w := readNat s.mem a 8
    let old := fld w 8 8
    let cz := if old = 0 then cause else old
    let fl := fld w 1 3 ||| (mcfail + 2 * gone + 4 * nres)
    let w' := (fld w 32 32 + 1) % 2 ^ 32 * 2 ^ 32 + fld w 16 16 * 2 ^ 16 + fld w 4 4 * 2 ^ 4 + cz * 256 + fl * 2 + (if cz = 0 then 0 else 1)
    let mem := writeNat s.mem a 8 w'
    let mem := writeNat mem (a + 8) 8 (readNat mem (a + 8) 8 &&& resmask.toNat)
    let mem := writeNat mem (a + 16) 8 (readNat mem (a + 16) 8 ||| failmask.toNat)
    let more := s.moves.any fun o => o.ctx = m.ctx && o.h = m.h && o.id ≠ m.id
    { s with mem := mem, tags := if more then s.tags else setTag s.tags a tagFull }

/-- Consecutive bytes of another device, as messages. -/
def remoteRuns : List (Nat × Nat × Byte) → List (Nat × Nat × List Byte)
  | [] => []
  | (d, o, b) :: l =>
    match remoteRuns l with
    | (d', o', bs) :: r => if d' = d && o' = o + 1 then (d, o, b :: bs) :: r else (d, o, [b]) :: (d', o', bs) :: r
    | [] => [(d, o, [b])]

/-- Bytes that go to another device, as one write request with the sender's key (R196, R405, R407). -/
def State.sendWrites (s : State) (pasid : BitVec 20) (l : List (PByte × Byte)) : State :=
  let far := l.filterMap fun e => match e.1 with
    | .remote d o => some (d, o, e.2)
    | _ => none
  match far with
  | [] => s
  | (d, o, _) :: _ => { s with out := s.out ++ [Msg.fabric d o (s.fkey pasid) (.write ((remoteRuns far).map fun r => r.2))] }

/-- Perform or park the bytes that an operation of a task writes (R212, R276): the later of two to one byte remains; a page that is
not present, or that has parked entries, parks them and raises its page request. -/
def State.putBytes (s : State) (o : Parker) (kind : ParkKind) (l : List (PByte × Byte)) : State :=
  let q := coreOf o.ctx
  let pasid := o.pasid
  let now := l.filterMap fun e => match e.1 with
    | .at pa => some (pa, e.2)
    | .virt va (some pa) => if (s.parks q pasid (.virt va (some pa))).isSome then none else some (pa, e.2)
    | _ => none
  let late := l.filterMap fun e => (s.parks q pasid e.1).map fun va => (va, e.2)
  let dirty := (l.filterMap fun e => match e.1 with
    | .virt va (some pa) => if (s.parks q pasid (.virt va (some pa))).isSome then none else some (va / 4096)
    | _ => none).eraseDups
  let s := { s with mem := writeAll s.mem now }
  let s := (s.overwrite o.ctx (o.entry.getD 0) (now.map (·.1))).markDirtyAll q pasid dirty
  ((late.map fun e => e.1 / 4096).eraseDups).foldl (fun s p => s.park o p kind (late.filter fun e => e.1 / 4096 = p)) s

/-- The element of a list of bytes at index m, each of es bytes. -/
def elemsOf {α : Type} (es n : Nat) (l : List α) : List (List α) := chunks es n l

/-- Bytes of an element's scratchpad words. -/
def storeBytes (l : List PByte) : List Nat := (endBytes l).filter inStore

/-- Tag the scratchpad words of elements POISON (R203). -/
def State.poisonWords (s : State) (as : List Nat) : State := { s with tags := as.foldl (fun t a => setTag t a tagPoison) s.tags }

/-- The context in which a move's task runs its own bundles, for its older scratchpad writes (R213). -/
def State.viewer (s : State) (m : Move) : Ctx :=
  let x := s.ctx m.ctx
  if x.uid = m.uid then x else Ctx.idle

/-- Fill the bytes that lie in other devices' memories with free values: the bytes and the next free entry. -/
def fillRemote (m : List Host.Cell) : List PByte → Nat → List (Option Nat) × Nat
  | [], f => ([], f)
  | b :: bs, f =>
    let r := fillRemote m bs (match b with | .remote _ _ => f + 1 | _ => f)
    ((match b with | .at pa => some pa | .virt _ o => o | .remote _ _ => none) :: r.1, r.2)

/-- One source element (R203, R215): its bytes, or none when a POISON word covers it; zero when one of its pages is not present; a
byte of another device is a free value. -/
def State.readElem (s : State) (x : Ctx) (entry f : Nat) (l : List PByte) : Option (List Byte) :=
  if s.poisoned (storeBytes l) then none
  else if l.any fun b => match b with | .virt _ none => true | _ => false then some (l.map fun _ => 0)
  else
    let pas := l.map fun b => match b with | .at pa => pa | .virt _ (some pa) => pa | _ => 0
    let own := engineBytes x entry s.mem pas
    some ((own.zip (l.zip (freeBytes l.length f))).map fun e => match e.2.1 with | .remote _ _ => e.2.2 | _ => e.1)

/-- The source elements of a move. -/
def State.readElems (s : State) (m : Move) : List (Option (List Byte)) :=
  let x := s.viewer m
  (elemsOf m.es m.n m.src).mapIdx fun i l => s.readElem x m.entry (s.free + m.es * i) l

/-- The free values that reading a source may use. -/
def Move.freeUse (m : Move) : Nat := if m.src.any fun b => match b with | .remote _ _ => true | _ => false then m.es * m.n else 0

/-- The residency mask of a move and whether it met a page that is not present (R215). -/
def Move.residency (m : Move) : Word × Bool :=
  let absent := (elemsOf m.es m.n m.src).mapIdx fun i l => (i, l.any fun b => match b with | .virt _ none => true | _ => false)
  absent.foldl (fun r e => if e.2 then (r.1 &&& ~~~((1 : Word) <<< (e.1 / m.n0 % 64)), true) else r) (BitVec.allOnes 64, false)

/-- The destinations of a move's bytes; a TMC writes its offsets in every core of a mask (R209). -/
def Move.targets (m : Move) (mask : Word) : List (List PByte) :=
  match m.kind with
  | .tmc => (maskCores (dieOf m.ctx) mask).map fun q => m.dst.map fun b => match b with | .at o => .at (spadPA q o) | b => b
  | _ => [m.dst]

/-- Write a move's elements to one destination: zeros and POISON for elements with a POISON source word (R203). -/
def State.writeElems (s : State) (m : Move) (kind : ParkKind) (dst : List PByte) (es : List (Option (List Byte))) : State :=
  let parts := (elemsOf m.es m.n dst).zip es
  let bytes := parts.flatMap fun e => e.1.zip ((e.2).getD (e.1.map fun _ => 0))
  let s := s.putBytes m.parker kind bytes
  s.poisonWords ((parts.filter fun e => e.2.isNone).flatMap fun e => storeBytes e.1)

/-- A Fold update by an n-byte input that goes to another device (R192, R405, R408): in a reduction window the input is converted here, and its flags are
set here; elsewhere the home makes the conversion. -/
def State.sendFold (s : State) (pasid : BitVec 20) (d o n : Nat) (x : Word) : State × Word :=
  match s.redwin d o with
  | some v =>
    let r := foldStep v.op v.scale 0 x
    ({ s with out := s.out ++ [.fabric d o (s.fkey pasid) (.reduce v.op v.scale v.group v.count [if v.op = 10 then r.1 else x])] }, r.2)
  | none => ({ s with out := s.out ++ [.fabric d o (s.fkey pasid) (.fold n [(o, x)])] }, 0)

/-- One Fold update of a move or an MSEND at its word's first byte (R192, R206, R276): parked when the page is not present or has parked
entries; the flags come back, of a parked update too where its operation is known (R140; log 94). -/
def State.foldTo (s : State) (o : Parker) (b : PByte) (es op : Nat) (scale : BitVec 8) (x : Word) : State × Word :=
  match b with
  | .at pa => s.foldAt pa op scale x
  | .virt va (some pa) =>
    if (s.parks (coreOf o.ctx) o.pasid (.virt va (some pa))).isSome then (s.parkFold o va es x true, (foldStep op scale 0 x).2)
    else
      let r := s.foldAt pa op scale x
      (r.1.markDirty (coreOf o.ctx) o.pasid (va / 4096), r.2)
  | .virt va none => (s.parkFold o va es x false, 0)
  | .remote d off => s.sendFold o.pasid d off es x

/-- The Fold updates of a TACC, element by element; an element with a POISON source word makes none (R203, R206). -/
def State.foldElems (s : State) (m : Move) (es : List (Option (List Byte))) : State × Word :=
  ((m.dst.zip m.folds).zip es).foldl
    (fun (r : State × Word) e =>
      match e.2 with
      | none => r
      | some bs =>
        let t := r.1.foldTo m.parker e.1.1 m.es e.1.2.1 e.1.2.2 (BitVec.ofNat 64 (leNat bs))
        (t.1, r.2 ||| t.2)) (s, 0)

/-- A range of an object's Flow as physical bytes (R204, R205). -/
def State.flowBytes (s : State) (f : FlowEnd) : List PByte :=
  match s.obj f.die f.slot with
  | some o => (span (hbmPA (o.base + f.off)) f.len).map PByte.at
  | none => []

/-- How a move completes: its status, its cause, and what it adds to its completion entry, FST and ATTN. -/
structure Outcome where
  status : Word
  cause  : Nat
  gone   : Bool
  nres   : Bool
  resmask : Word
  fails  : Word
  fst    : Word
  attn   : Word
  deriving DecidableEq, Repr

/-- Completed with status all ones, no cause (R210). -/
def Outcome.fine : Outcome := ⟨BitVec.allOnes 64, 0, false, false, BitVec.allOnes 64, 0, 0, 0⟩

/-- Completed with status zero, no cause (R204, R271, R272, R274). -/
def Outcome.nothing : Outcome := { Outcome.fine with status := 0 }

/-- Status zero, cause 0x06 and GONE (R343). -/
def Outcome.away : Outcome := { Outcome.fine with status := 0, cause := 6, gone := true }

/-- A role violation at the home device (R196, R210). -/
def Outcome.violation : Outcome := { Outcome.fine with cause := 4 }

/-- A TSTF dropped after its task's token: status zero, EDROP (R271). -/
def Outcome.dropped : Outcome := { Outcome.nothing with attn := attnEDROP }

/-- The object end is broken: nothing moves, FST.BRK (R274). -/
def Outcome.broke : Outcome := { Outcome.nothing with fst := flagBRK }

/-- An end lies in this device's own aperture; in another device's. -/
def State.ownEnd (s : State) (l : List PByte) : Bool := match l.head? with | some (.remote d _) => d = s.fabId | _ => false
def State.farEnd (s : State) (l : List PByte) : Bool := match l.head? with | some (.remote d _) => d ≠ s.fabId | _ => false

/-- How a move uses an end in an aperture, and the export permission bit that it needs (R196, R406). -/
def MoveKind.homeUse (k : MoveKind) (dest : Bool) : Use × Nat :=
  if dest then if k = .tstf then (.flowWrite, 1) else if k = .tacc then (.fold, 2) else (.write, 1)
  else if k = .tldf then (.flowRead, 0) else (.read, 0)

/-- What the ends of a move in this device's own aperture meet (R405, R407): a violation, a closed range, or the move with physical
ends. -/
inductive HomeMove where
  | bad
  | held
  | at (m : Move)
  deriving DecidableEq, Repr

/-- One element of an end in the own aperture: its bytes, its object, its Fold. -/
def State.homeElem (s : State) (m : Move) (dest : Bool) : PByte → AtHome
  | .remote _ off =>
    if dest && m.kind = .tacc then s.atFold (s.fkey m.pasid) m.uid off m.es
    else s.atEntry (s.fkey m.pasid) (m.kind.homeUse dest).2 (m.kind.homeUse dest).1 m.uid off m.es
  | _ => .bad

/-- An end in the own aperture, element by element. -/
def State.atHome (s : State) (m : Move) (dest : Bool) : HomeMove :=
  let l := if dest then m.dst else m.src
  if s.ownEnd l then
    let fold := dest && m.kind = .tacc
    let heads := if fold then l else (elemsOf m.es m.n l).filterMap List.head?
    let add (m : Move) (d slot off : Nat) (f : Nat × BitVec 8) : Move :=
      let pa := match s.obj d slot with
        | some o => hbmPA (o.base + off)
        | none => 0
      let m := { m with ends := (m.ends ++ [(d, slot)]).eraseDups }
      if fold then { m with dst := m.dst ++ [.at pa], folds := m.folds ++ [f] }
      else if dest then { m with dst := m.dst ++ (span pa m.es).map PByte.at }
      else { m with src := m.src ++ (span pa m.es).map PByte.at }
    heads.foldl
      (fun acc b => match acc with
        | .at k => match s.homeElem m dest b with
          | .at d slot off _ f => .at (add k d slot off f)
          | .held => .held
          | .bad => .bad
        | r => r) (.at (if fold then { m with dst := [], folds := [] } else if dest then { m with dst := [] } else { m with src := [] }))
  else .at m

/-- Both ends. -/
def State.homed (s : State) (m : Move) : HomeMove :=
  match s.atHome m false with
  | .at k => s.atHome k true
  | r => r

/-- A Flow move through this device's own aperture claims or reserves when it is checked at home (R407): the move with its range, or how
it completes. -/
def State.homeFlow (s : State) (m : Move) : Except Outcome (Move × State) :=
  let l := if m.kind = .tldf then m.src else m.dst
  match l.head? with
  | some (.at pa) =>
    match s.findObj pa with
    | some (d, slot, o) =>
      let a := pa - hbmPA o.base
      let n := m.es * m.n
      match o.stream with
      | none => .error .violation
      | some t =>
        if o.brk then .error .broke
        else if n % o.flowSize ≠ 0 || a % o.flowSize ≠ 0 then .error .violation
        else if m.kind = .tldf then
          if a ≠ t.c then .error (if m.soft then .nothing else .violation)
          else .ok ({ m with flow := some ⟨d, slot, a, n⟩ }, s.modStream d slot fun t => t.claim a n)
        else if t.append && a ≠ o.flowStart then .error .violation
        else
          match o.reserve t m.uid a n with
          | .refused _ => .error .violation
          | .dropped => .error .dropped
          | .at off => .ok ({ m with flow := some ⟨d, slot, off, n⟩ }, s.modStream d slot fun t => t.take m.uid off n)
    | none => .error .violation
  | _ => .error .fine

/-- A dropped TSTF adds its shape's elements to the drop count of its stream (R271; DESIGN CHOICE, log 101). -/
def State.countDrop (s : State) (m : Move) : State :=
  match m.dst.head? with
  | some (.at pa) => (s.findObj pa).elim s fun r => s.modStream r.1 r.2.1 fun t => { t with d := t.d + m.n }
  | _ => s

/-- A TLDF takes the elements of its range (R204, R215, R272): zeros for those past the end of an ended stream and for those of pages that
are not present. -/
def State.runTldf (s : State) (m : Move) (f : FlowEnd) (es : List (Option (List Byte))) : State × Outcome :=
  let k := ((s.obj f.die f.slot).bind fun o => o.stream.bind fun t => t.ready f.off f.len).getD f.len
  let zeros : Option (List Byte) := some (List.replicate m.es 0)
  let r := m.residency
  let s := s.writeElems m .bytes m.dst (es.mapIdx fun i e => if m.es * (i + 1) ≤ k then e else zeros)
  if k = f.len then (s, { Outcome.fine with nres := r.2, resmask := r.1 })
  else (s.modStream f.die f.slot fun t => { t with c := t.final.getD t.c }, { Outcome.nothing with nres := r.2, resmask := r.1 })

/-- A reserved range whose bytes have all been written is published (R205, R276). -/
def State.publishFlow (s : State) (q : Nat) (f : FlowEnd) : State :=
  if (s.core q).replay.any fun p => p.kind = .flow f then s else s.modStream f.die f.slot fun t => t.publish f.off f.len

/-- The cause of a move whose source had a POISON word (R203). -/
def poisonCause (es : List (Option (List Byte))) : Nat := if es.any Option.isNone then 5 else 0

/-- The elements of a move that can be written now, from element a on: those whose bytes find room in the replay queue (R276). -/
def State.fits (s : State) (m : Move) : Nat → Nat → Nat
  | 0, _ => 0
  | n + 1, a =>
    let q := coreOf m.ctx
    let w := if m.kind = .tacc then 1 else m.es
    let bytes := (m.dst.drop (w * m.passed)).take (w * (a + 1))
    let need := if m.kind = .tacc then (bytes.filterMap (s.parks q m.pasid)).length else s.parkCount q m.pasid bytes
    if (s.core q).replay.length + need ≤ replayEntries then 1 + s.fits m n (a + 1) else 0

/-- The replay queue has no room for what is left of a move; then its X slot stalls (R276). -/
def State.full (s : State) (m : Move) : Bool :=
  let w := if m.kind = .tacc then 1 else m.es
  let l := m.dst.drop (w * m.passed)
  let q := coreOf m.ctx
  !m.gone && !m.broken && !m.quiet && (l.any fun b => (s.parks q m.pasid b).isSome) &&
    replayEntries < (s.core q).replay.length + (if m.kind = .tacc then (l.filterMap (s.parks q m.pasid)).length else s.parkCount q m.pasid l)

/-- The Fold updates, or the bytes, of the elements of a move from element a on, n of them (R206-R209, R276). -/
def State.putElems (s : State) (m : Move) (es : List (Option (List Byte))) (a n : Nat) : State × Word :=
  let es := (es.drop a).take n
  if m.kind = .tacc then s.foldElems { m with dst := (m.dst.drop a).take n, folds := (m.folds.drop a).take n } es
  else
    let kind : ParkKind := match m.kind, m.flow with
      | .tstf, some f => .flow f
      | .tstf, none => m.dst.head?.elim .bytes fun b => match b with
        | .virt va _ => .produce va (m.es * m.n) m.n
        | _ => .bytes
      | _, _ => .bytes
    (s.writeElems { m with n := n } kind ((m.dst.drop (m.es * a)).take (m.es * n)) es, 0)

/-- A move of plain bytes to the cores of a mask (R209). -/
def State.runMulticast (s : State) (m : Move) (es : List (Option (List Byte))) (failed : Word) : State :=
  let good := (m.targets (m.mask &&& ~~~failed)).foldl (fun s d => s.writeElems m .bytes d es) s
  if failed = 0 then good else good.poisonWords ((m.targets (m.mask &&& failed)).flatMap storeBytes)

/-- Data that an error leaves unspecified are free values (R378). -/
def freeElems (m : Move) (f : Nat) : List (Option (List Byte)) := (List.range m.n).map fun i => some (freeBytes m.es (f + m.es * i))

/-- The flags that Fold updates at another device's home may set come back as free values (R98, R192, R407). -/
def State.remoteFlags (s : State) (m : Move) : State × Word :=
  if m.kind = .tacc && m.es = 4 && m.folds.any (fun f => f.1 = 31) then
    let r := s.freeBits 2
    (r.2, r.1.setWidth 64)
  else (s, 0)

/-- The read request that a move's source sends to another device (R196, R407). -/
def State.readRequests (s : State) (m : Move) : List Msg :=
  match m.src.head? with
  | some (.remote d o) =>
    let far := m.src.filterMap fun b => match b with | .remote d o => some (d, o, (0 : Byte)) | _ => none
    let op : FabricOp :=
      if m.kind = .tldf then .flowRead (m.es * m.n) else .read ((remoteRuns far).map fun r => (r.2.1, r.2.2.length))
    [Msg.fabric d o (s.fkey m.pasid) op]
  | _ => []

/-- The Fold updates of a TACC to another device (R196, R405, R408): those in reduction windows one by one, the others in one request; the
flags of conversions made here come back. -/
def State.sendFolds (s : State) (m : Move) (es : List (Option (List Byte))) : State × Word :=
  let l : List (Nat × Nat × Word) := (m.dst.zip es).filterMap fun e => match e.1, e.2 with
    | .remote d o, some bs => some (d, o, BitVec.ofNat 64 (leNat bs))
    | _, _ => none
  let r := (l.filter fun e => (s.redwin e.1 e.2.1).isSome).foldl (fun (r : State × Word) e =>
    let t := r.1.sendFold m.pasid e.1 e.2.1 m.es e.2.2
    (t.1, r.2 ||| t.2)) (s, 0)
  match l.filter fun e => (s.redwin e.1 e.2.1).isNone with
  | [] => r
  | (d, o, x) :: k => ({ r.1 with out := r.1.out ++ [.fabric d o (s.fkey m.pasid) (.fold m.es (((d, o, x) :: k).map fun e => e.2))] }, r.2)

/-- The source elements of a move as an error code leaves them, with the free values they use. -/
def State.sourceElems (s : State) (m : Move) (err : Nat) (failed : Word) : List (Option (List Byte)) × State :=
  let es := m.data.getD (s.readElems m)
  if err = 0 || failed ≠ 0 then (es, { s with free := s.free + if m.data.isSome then 0 else m.freeUse })
  else (freeElems m s.free, { s with free := s.free + m.es * m.n })

/-- The requests of a move to another device leave with their data (R407): what is left then is the answer. The flags that a
conversion here sets come back. -/
def State.sendMove (s : State) (m : Move) : State × Word × Move :=
  let r := s.sourceElems m 0 0
  let es := r.1
  let s := r.2
  let k := { m with data := some es, sent := true }
  match m.kind, m.dst.head? with
  | .tstf, some (.remote d o) =>
    let bytes := es.flatMap fun e => e.getD (List.replicate m.es 0)
    ({ s with out := s.out ++ [.fabric d o (s.fkey m.pasid) (.flowWrite m.uid bytes)] }, 0, k)
  | .tacc, _ =>
    let t := s.sendFolds m es
    (t.1, t.2, k)
  | _, _ => (s.sendWrites m.pasid ((m.dst.zip ((es.map fun e => e.getD (List.replicate m.es 0)).flatten))), 0, k)

/-- Whether an end at another device is a broken object is known there: a free choice (R274, R407). -/
def State.brokenThere (s : State) (m : Move) : Bool × State := if s.farEnd m.src || s.farEnd m.dst then s.freeBool else (false, s)

/-- What the answer of another device to a Flow move says is a free choice: a TLDF received all or nothing, a TSTF was written or
dropped (R204, R271, R407). -/
def State.flowAnswer (s : State) (m : Move) : State × Outcome :=
  let r := s.freeBool
  (r.2, if r.1 then .fine else if m.kind = .tstf then .dropped else .nothing)

/-- The effect of a move whose own-aperture ends have been resolved, with an error code of R210 and the failed destinations. -/
def State.runResolved (s : State) (m : Move) (err : Nat) (failed : Word) : State × Outcome :=
  let r := s.sourceElems m err failed
  let es := r.1
  let s := r.2
  let res := m.residency
  let loads (s : State) : State × Outcome :=
    (s, { Outcome.fine with status := res.1, resmask := res.1, nres := res.2, cause := poisonCause es })
  let fine : Outcome := { Outcome.fine with cause := poisonCause es }
  match m.kind, m.flow with
  | .tldf, some f => s.runTldf m f es
  | .tldf, none =>
    let a := if s.farEnd m.src then s.flowAnswer m else (s, Outcome.fine)
    (a.1.writeElems m .bytes m.dst es, { a.2 with nres := res.2, resmask := res.1 })
  | .tstf, fl =>
    if m.sent then
      let a := s.flowAnswer m
      (a.1, { a.2 with cause := poisonCause es })
    else
      let t := (s.putElems m es m.passed (m.n - m.passed)).1
      (fl.elim t fun f => t.publishFlow (coreOf m.ctx) f, fine)
  | .tacc, _ =>
    if m.sent then
      let u := s.remoteFlags m
      (u.1, { fine with fst := u.2 })
    else
      let t := s.putElems m (if err = 0 then es else []) m.passed (m.n - m.passed)
      (t.1, { fine with fst := t.2 })
  | .tmc, _ =>
    let o := (loads (s.runMulticast m es failed))
    (o.1, { o.2 with fails := m.mask &&& failed })
  | .tst, _ => (if m.sent then s else (s.putElems m es m.passed (m.n - m.passed)).1, { fine with nres := res.2, resmask := BitVec.allOnes 64 })
  | _, _ => loads (if m.sent then s else (s.putElems m es m.passed (m.n - m.passed)).1)

/-- The effect of a move, with the data read at issue for a buffered one, an error code of R210 and the failed destinations. -/
def State.runMove (s : State) (m : Move) (err : Nat) (failed : Word) : State × Outcome :=
  if m.gone then (s, .away)
  else if m.quiet then (s, .nothing)
  else
    match s.homed m with
    | .at k =>
      let brk := k.ends.any fun e => (s.obj e.1 e.2).elim false (·.brk)
      let there := s.brokenThere m
      let s := there.2
      if m.broken || brk || (err = 0 && there.1) then (s, .broke)
      else if err = 4 then (s, .violation)
      else
        let flow := if (k.kind = .tldf && s.ownEnd m.src && m.flow.isNone) || (k.kind = .tstf && s.ownEnd m.dst) then s.homeFlow k else .ok (k, s)
        match flow with
        | .error o => (if o = .dropped then s.countDrop k else s, o)
        | .ok (k, s) =>
          let k := if k.kind = .tstf && s.ownEnd m.dst then { k with dst := k.flow.elim k.dst s.flowBytes } else k
          let r := s.runResolved k err failed
          (r.1, if err = 0 then r.2 else { r.2 with cause := err })
    | _ => (s, .violation)

/-- The places that a byte of a move's end stands for, in the order of moves (R212): its physical number, its virtual address, its place
in an aperture; a byte of the own aperture is one of HBM too. -/
def State.keys (s : State) (pasid : BitVec 20) : PByte → List (Nat × Nat)
  | .at pa => [(0, pa)]
  | .virt va o => (1, va) :: o.toList.map fun pa => (0, pa)
  | .remote d off =>
    (2 + d, off) :: (if d = s.fabId then
      match s.exports.find? fun e => e.2.start ≤ off && off < e.2.start + e.2.len && e.2.key = s.fkey pasid with
      | some (_, e) => (s.obj e.die e.slot).toList.map fun o => (0, hbmPA (o.base + (off - e.start + e.off)))
      | none => []
    else [])

/-- The places that a move reads and writes. -/
def State.readsOf (s : State) (m : Move) : List (Nat × Nat) := m.src.flatMap (s.keys m.pasid)
def State.writesOf (s : State) (m : Move) : List (Nat × Nat) := ((m.targets m.mask).flatten).flatMap (s.keys m.pasid)

/-- An earlier move of the same task meets a byte of this one in a way that orders them (R212, R213). -/
def State.behind (s : State) (m : Move) : Bool :=
  let mine := s.readsOf m
  let out := s.writesOf m
  s.moves.any fun o => o.id < m.id && o.ctx = m.ctx && o.uid = m.uid &&
    ((s.writesOf o).any (fun k => mine.contains k || out.contains k) || (s.readsOf o).any (fun k => out.contains k))

/-- A source byte that the move's own task has parked (R277). -/
def State.readsParked (s : State) (m : Move) : Bool :=
  (s.core (coreOf m.ctx)).replay.any fun p => p.uid = m.uid && p.pasid = m.pasid &&
    m.src.any fun b => match b with | .virt va _ => p.bytes.any fun e => e.1 = va | _ => false

/-- A TSTF in flight whose range is reserved only later: at its check at home, or once its page is present (R270, R407). -/
def Move.reserves (m : Move) : Bool := m.kind = .tstf && m.flow.isNone && !m.gone && !m.quiet && !m.broken && !m.sent

/-- A TSTF that has not reserved its range waits for the earlier tokens and TSTFs of its context, which reach a stream in entry order
(R270, R271). -/
def State.behindToken (s : State) (m : Move) : Bool :=
  m.reserves && (s.eoss.any (fun e => e.id < m.id && e.ctx = m.ctx && e.uid = m.uid) ||
    s.moves.any fun o => o.id < m.id && o.ctx = m.ctx && o.uid = m.uid && o.reserves)

/-- What a parked entry of an operation will still tell of it: the flags of a Fold update whose operation is not known (R140), or whether
a TSTF finds its stream (R271; log 94). -/
def Parked.tells (p : Parked) : Bool :=
  match p.kind with
  | .fold n x told => !told && n = 4 && (f32 (x.setWidth 32)).isNan
  | .produce _ _ _ => true
  | _ => false

/-- A move whose bytes are all parked waits for what they will tell before it is reported (R140, R271; log 94). -/
def State.unsettled (s : State) (m : Move) : Bool :=
  m.passed = m.n && (s.core (coreOf m.ctx)).replay.any fun p => p.op = m.id && p.tells

/-- A move will park bytes whose replay will tell more of it. -/
def Move.defers (m : Move) : Bool :=
  m.passed < m.n && !m.sent && ((m.kind = .tacc && m.es = 4 && m.dst.any fun b => match b with | .virt _ none => true | _ => false) ||
    (m.kind = .tstf && m.flow.isNone && m.dst.any fun b => match b with | .virt _ _ => true | _ => false))

/-- A store to a page that has parked entries would park when a slot of its context stands more than 16 entries above it: it waits for the
replay, since its denial could not be recorded within the skid (R278, R359; log 100). -/
def State.skidPast (s : State) (m : Move) : Bool :=
  let x := s.ctx m.ctx
  x.uid = m.uid && !s.commits m.id && (x.saved.all fun u => u.firstId ≤ m.id) && m.entry + 16 < x.entry &&
    (m.dst.drop ((if m.kind = .tacc then 1 else m.es) * m.passed)).any fun b => (s.parks (coreOf m.ctx) m.pasid b).isSome

/-- A move can go on: what it waits for has happened (R140, R199, R204, R212, R213, R219, R271, R276, R277, R359, R404). -/
def State.moveReady (s : State) (m : Move) : Bool :=
  !s.behind m && s.flowReady m && !s.readsParked m && !s.behindToken m && !s.unsettled m && !s.skidPast m &&
    !s.undelivered m.ctx m.uid (fun _ id => id < m.id) (storesOf m.ctx (endBytes m.src ++ m.destBytes)) &&
    (m.pages.all fun p => p.2 = .present || p.2 = .missing) &&
    (!(s.ownEnd m.src || s.ownEnd m.dst) || s.homed m ≠ .held) && (!s.full m || 0 < s.fits m 1 0)

/-- A move waits for the answer of another device (R407). -/
def State.awaits (s : State) (m : Move) : Bool := m.sent || (m.asked && s.farEnd m.src)

/-- Invalidations that waited only for what has now been performed write the removed entries' dirty bits and complete; the writes that they
waited for may have dirtied newer entries of their range, which are logged first (R399). -/
def State.settleInvals (s : State) : State :=
  let done (v : Inval) : Bool := !(s.moves.any fun m => v.moves.contains m.id) &&
    !(s.msends.any fun m => v.sends.contains m.id) && !(s.eoss.any fun m => v.sends.contains m.id)
  s.invals.foldl (fun s v =>
    if done v then
      let again (e : TEntry) : Bool := !(v.moves.isEmpty && v.sends.isEmpty) && e.dirty && e.within v.pasid v.start v.len
      let s := s.logEntries (v.dirty ++ s.cores.flatMap fun q => q.2.tlb.filter again)
      let clean (q : Nat × Core) : Nat × Core := (q.1, { q.2 with tlb := updWhere again (fun e => { e with dirty := false }) q.2.tlb })
      let s := { s with cores := s.cores.map clean }
      { s with invals := s.invals.filter fun w => w ≠ v, out := s.out ++ [.invalidationDone v.pasid v.start v.len] }
    else s) s

/-- Report a completed move: ATTN and FST before the completion entry, then the status (R140, R142, R208-R210). -/
def State.reportMove (s : State) (m : Move) (o : Outcome) : State :=
  let attn := (if o.gone then attnGONE else 0) ||| (if o.nres then attnNRES else 0) |||
    (if (o.cause ≠ 0 && !o.gone) || o.fails ≠ 0 then attnMERR else 0) ||| o.attn
  let s := s.flagTask m.ctx m.uid o.fst attn
  let s := s.finishEntry m o.cause (if o.nres then 1 else 0) (if o.gone then 1 else 0) (if o.fails = 0 then 0 else 1) o.resmask o.fails
  s.setStatus m.ctx m.uid m.id m.h o.status

/-- A word of memory written by the sequencer, with its tag. -/
def State.putWord (s : State) (c pa v : Nat) (tag : BitVec 2) : State :=
  { s with mem := writeNat s.mem pa 8 v, tags := setTag s.tags pa tag }.overwrite c 0 (span pa 8)

/-- A completion entry at task start (R210); count is 1 for a prelude that was preloaded (R303). -/
def State.initEntry (s : State) (c h count : Nat) : State :=
  let a := complPA c h
  let s := s.putWord c a (count * 2 ^ 32) tagFull
  let mem := writeNat s.mem (a + 8) 8 (2 ^ 64 - 1)
  { s with mem := writeNat mem (a + 16) 16 0 }.overwrite c 0 (span (a + 8) 24)

/-- The completion entries and the children's join word at a task's start (R210, R289, R302). -/
def State.initStart (s : State) (c count : Nat) : State :=
  match (s.ctx c).task with
  | none => s
  | some t =>
    let s := (((s.initEntry c 0 count).initEntry c 1 0).initEntry c 2 0).initEntry c 3 0
    s.putWord c (spadPA (coreOf c) (64 * (t.trec.foff + t.trec.len0 - 1))) 0 tagFull

/-- A prelude's move is the one that no bundle of its task has issued (R303). -/
def Move.isPrelude (m : Move) : Bool := m.entry = 0

/-- A move that performs a committed effect reports its flags and its error alone: its completion was reported when it was buffered
(R315, R322). -/
def State.reportCommit (s : State) (m : Move) (o : Outcome) : State :=
  let s := s.flagTask m.ctx m.uid o.fst o.attn
  if 1 ≤ o.cause && o.cause ≤ 4 then s.failUnderway m.id (commitFault (if o.cause ≤ 2 then 1 else 2) 0) else s

/-- A move is reported with its outcome, and leaves; what a task's start initialises follows its prelude's bytes (R302). -/
def State.reportDone (s : State) (m : Move) (o : Outcome) : State :=
  let s := if m.isPrelude then s.initStart m.ctx 0 else s
  let s := if s.commits m.id then s.reportCommit m o
    else if m.h < 4 then s.reportMove m o else s.setStatus m.ctx m.uid m.id m.h o.status
  let s := m.objs.foldl State.discharge s
  let s := { s with moves := s.moves.filter fun k => k.id ≠ m.id, evTurn := true }
  (s.reap m.ctx).settleInvals

/-- A move is performed and reported. err is an error code of R210 that a check of R378 found, failed the destinations of a TMC that it
met (R209). -/
def State.completeMove (s : State) (m : Move) (err : Nat) (failed : Word) : State :=
  let err := if (m.kind ≠ .tmc && (m.kind = .ttag || m.kind = .preq)) || 4 < err then 0 else err
  let failed := if m.kind = .tmc && (err = 2 || err = 3) then failed &&& m.mask else 0
  let r : State × Outcome :=
    match m.kind with
    | .ttag => (((endBytes m.dst).filter fun a => a % 8 = 0).foldl (fun s a => s.tagWrite a m.code) s, .fine)
    | .preq => (s, if m.pages.all fun p => p.2 = .present then .fine else .nothing)
    | _ => s.runMove m err failed
  r.1.reportDone m r.2

/-- Put a move back among those in flight. -/
def State.putMove (s : State) (m : Move) : State := { s with moves := updWhere (fun o => o.id = m.id) (fun _ => m) s.moves, evTurn := true }

/-- A TLDF through the own aperture claims its elements at its check at home, and then waits for them (R204, R272, R407). -/
def State.claimsHome (s : State) (m : Move) : Bool :=
  m.kind = .tldf && s.ownEnd m.src && m.flow.isNone && !m.gone && !m.quiet && !m.broken

/-- The claim. -/
def State.claimHome (s : State) (m : Move) : State :=
  match s.homed m with
  | .at k => match s.homeFlow k with
    | .ok r => r.2.putMove r.1
    | .error o => s.reportDone m o
  | _ => s.reportDone m .violation

/-- A move whose waits are over goes on: its read requests leave; it claims its elements at home; its write requests leave; as much of it
as the replay queue has room for is written (R276); or it completes. -/
def State.advanceMove (s : State) (m : Move) (err : Nat) (failed : Word) : State :=
  let idle := m.gone || m.quiet || m.broken || m.kind = .ttag || m.kind = .preq
  if idle then s.completeMove m err failed
  else if s.farEnd m.src && !m.asked then { s with out := s.out ++ s.readRequests m }.putMove { m with asked := true }
  else if s.claimsHome m then s.claimHome m
  else if s.farEnd m.dst && !m.sent && err = 0 then
    let r := s.sendMove m
    (r.1.flagTask m.ctx m.uid r.2.1 0).putMove r.2.2
  else if s.full m || (err = 0 && m.defers) then
    let r := s.sourceElems m 0 0
    let n := r.2.fits m (m.n - m.passed) 0
    let t := r.2.putElems m r.1 m.passed n
    (t.1.flagTask m.ctx m.uid t.2 0).putMove { m with data := some r.1, passed := m.passed + n }
  else s.completeMove m err failed

/-- MOVE_COMPLETION (R210): a move whose waits are over goes on. -/
def execMoveCompletion (id : Nat) (err : BitVec 8) (failed : Word) (s : State) : Out :=
  .next (match s.moves.find? fun m => m.id = id with
    | some m => if s.moveReady m then s.advanceMove m err.toNat failed else s
    | none => s)

/-- Every byte of an end of a speculative task's move lies in Fixed segments (R315). -/
def State.allFixed (s : State) (e : EndPt) : Bool :=
  e.runs.length * 1 ≠ 0 && e.runs.all (fun r => match s.obj r.1 r.2.1 with
    | some o => (o.segsIn r.2.2.1 r.2.2.2).all fun g => g.2.role = .fixed
    | none => false) && !(e.bytes.any fun b => match b with | .virt _ (some pa) => inHost pa | .virt _ none => true | _ => false)

/-- A buffered move has read its source: it completes at once, with status all ones and no cause; its effect waits for the commit
(R315). -/
def State.bufferMove (s : State) (m : Move) (p : BitVec 4) (xs : List Exchange) : State :=
  let data := s.readElems m
  let m := { m with data := some data }
  s.buffer (.move m) fun s =>
    let s := m.objs.foldl State.countIn s
    let s := s.pendStatus p m.h
    let s := s.finishEntry { m with id := s.nextId } 0 0 0 0 (BitVec.allOnes 64) 0
    let s := s.setStatus m.ctx m.uid m.id m.h (BitVec.allOnes 64)
    ({ s with nextId := s.nextId + 1 }.exchange xs).retire

/-- A move that has passed its checks issues, is buffered, or waits: for a move in flight that holds its bytes or for room in the range
scoreboard (R213, R214), or, for a speculative task, as R315 says. direct: it may act before the task commits; buffers: its effect is held back. -/
def State.launchMove (s : State) (m : Move) (direct buffers : Bool) (p : BitVec 4) (xs : List Exchange) (claim : State → State) :
    State :=
  if s.held m.ctx (endBytes m.src ++ m.destBytes) then s.stall
  else if 32 < s.scored (coreOf m.ctx) + m.ranges.length then s.stall
  else if !s.cx.speculative || direct || (m.gone && m.kind ≠ .tldf) then (claim s).issueMove m p xs
  else if buffers then (if s.behind { m with id := s.nextId } then s.stall else s.bufferMove m p xs)
  else s.block .speculation

/-- The operands of a move: footprint limit, shape register after its exchange, the two scalar operands (R207). -/
def State.moveArgs (s : State) (g : BitVec 4) (w : BitVec 1) (h : BitVec 2) (a b : BitVec 5)
    (k : Foot → Word → Word → List Exchange → State → State) : State :=
  s.guard4 g fun s => s.xFree fun s => s.readS a fun va s => s.readS b fun vb s => s.readShape (12 + h.toNat) (w = 1) fun v xs s =>
    if 0x100000 < shCount v * shEs v then s.raise (wFootprint (shBase v))
    else k (s.foot g v (shEs v)) va vb xs s

/-- Every byte of a list lies in the footprint of the context's task (R315). -/
def State.inside (s : State) (l : List PByte) : Bool :=
  l.all fun b => match b with | .at pa => s.direct s.cur.ctx false [pa] | _ => false

/-- TLD, TST and TMOV (R208): sources may be any but Flow and Fold, destinations only Own, or host memory or scratchpads. A speculative
task's move from its footprint to its footprint is direct, and one that leaves it in part is buffered whole (R315; DESIGN CHOICE, log 104). -/
def copyOp (kind : MoveKind) (sa da : Accept) (g : BitVec 4) (w : BitVec 1) (h : BitVec 2) (a b : BitVec 5) (p : BitVec 4)
    (s : State) : State :=
  s.moveArgs g w h a b fun f va vb xs s =>
    let c := s.cur.ctx
    let uid := s.cx.uid
    let strideSrc := kind ≠ .tst
    s.withEnd (s.endOf c uid va sa false (some .read) f strideSrc true) fun src =>
    s.withEnd (s.endOf c uid vb da true (some .write) f (!strideSrc) true) fun dst =>
      if (src.bytes ++ dst.bytes).any fun b => match b with | .remote d o => (s.redwin d o).isSome | _ => false then
        s.raise (roleFlt 0 (if wfld va 60 4 = 1 then va else vb) 0)
      else
        let m := (s.newMove kind h.toNat f).between src dst
        let okSrc := s.allFixed src || s.inside src.bytes || m.gone
        s.launchMove m (okSrc && (s.inside dst.bytes || dst.gone)) okSrc p xs id

def execTld (g : BitVec 4) (w : BitVec 1) (h : BitVec 2) (a b : BitVec 5) (p : BitVec 4) (s : State) : Out :=
  .next (copyOp .tld .far .near g w h a b p s)
def execTst (g : BitVec 4) (w : BitVec 1) (h : BitVec 2) (a b : BitVec 5) (p : BitVec 4) (s : State) : Out :=
  .next (copyOp .tst .near .far g w h a b p s)
def execTmov (g : BitVec 4) (w : BitVec 1) (h : BitVec 2) (a b : BitVec 5) (p : BitVec 4) (s : State) : Out :=
  .next (copyOp .tmov .any .any g w h a b p s)

/-- TMC (R209): one footprint, stepped without base, to the named cores at offset base. -/
def execTmc (g : BitVec 4) (w : BitVec 1) (h : BitVec 2) (a b : BitVec 5) (p : BitVec 4) (s : State) : Out :=
  .next (s.moveArgs g w h a b fun f va vb xs s =>
    let c := s.cur.ctx
    s.withEnd (s.endOf c s.cx.uid va .any false (some .read) f true false) fun src =>
    s.withEnd (multicastEnd f vb) fun dst =>
      if src.bytes.any fun b => match b with | .remote d o => (s.redwin d o).isSome | _ => false then s.raise (roleFlt 0 va 0)
      else
        let m := { (s.newMove .tmc h.toNat f).between src dst with mask := vb }
        let okSrc := s.allFixed src || s.inside src.bytes || m.gone
        let own := m.destBytes.all fun pa => s.direct c false [pa]
        s.launchMove m (okSrc && own) okSrc p xs id)

/-- The Flow end of a move: die, slot, entry and offset of its first byte; none for a fabric end, a page that is not present, or gone;
an end that is no object raises the role fault (R194). -/
def State.flowOf (s : State) (e : EndPt) (op : Word) : Except XStop (Option (Nat × Nat × Obj × Nat)) :=
  match e.bytes.head?, e.runs.head? with
  | some (.virt _ none), _ => .ok none
  | some (.virt _ (some pa)), r =>
    match s.findObj pa, r with
    | some o, some _ => .ok (some (o.1, o.2.1, o.2.2, pa - hbmPA o.2.2.base))
    | _, _ => bad (roleFlt 0 op 0)
  | _, some r => .ok ((s.obj r.1 r.2.1).map fun o => (r.1, r.2.1, o, r.2.2.1))
  | _, none => .ok none

/-- TLDF (R204): claims at the consumer cursor; a status predicate makes a mismatch soft. A speculative task's stalls before its checks, which
are one step with its claim (R315, R327). -/
def execTldf (g : BitVec 4) (w : BitVec 1) (h : BitVec 2) (a b : BitVec 5) (p : BitVec 4) (s : State) : Out :=
  .next (s.moveArgs g w h a b fun f va vb xs s =>
    let c := s.cur.ctx
    let uid := s.cx.uid
    s.unlessSpec fun s =>
    s.withEnd (s.endOf c uid va .far false (some .flowRead) f false true) fun src =>
    s.withEnd (s.endOf c uid vb .near true (some .write) f true true) fun dst =>
    s.withEnd (s.flowOf src va) fun fl =>
      let m := { (s.newMove .tldf h.toNat f).between src dst with soft := p ≠ 0 }
      if src.bytes.any fun b => match b with | .remote d o => (s.redwin d o).isSome | _ => false then s.raise (roleFlt 0 va 0)
      else
      match fl with
      | none => s.launchMove m false false p xs id
      | some (d, slot, o, off) =>
        let n := f.es * f.n
        match o.stream with
        | none => s.raise (roleFlt 0 (o.addr off) 0)
        | some t =>
          let at' : Word := if wfld va 60 4 = 0 then va else o.addr off
          let hd : Word := if wfld va 60 4 = 0 then 0 else va
          if n % o.flowSize ≠ 0 || off % o.flowSize ≠ 0 then s.raise (roleFlt 0 at' hd)
          else if o.brk then s.launchMove { m with broken := true } false false p xs id
          else if off ≠ t.c then
            if p ≠ 0 then s.launchMove { m with quiet := true } false false p xs id
            else s.raise (flt 0x06 0 at' hd)
          else
            s.launchMove { m with flow := some ⟨d, slot, off, n⟩ } false false p xs fun s =>
              s.modStream d slot fun t => t.claim off n)

/-- The checks of a TSTF at its issue that stay there when it is buffered (R205, R270, R315). -/
def tstfCheck (o : Obj) (t : Stream) (off n : Nat) (at' hd : Word) : Except Flt Unit :=
  if n % o.flowSize ≠ 0 || off % o.flowSize ≠ 0 then .error (roleFlt 0 at' hd)
  else if t.append && off ≠ o.flowStart then .error (roleFlt 9 at' hd)
  else .ok ()

/-- The use that a TSTF's Flow end is checked for: an append stream is named by its first byte, so only that element is (R270). -/
def flowFoot (s : State) (va : Word) (f : Foot) : Foot :=
  let app (o : Obj) : Bool := o.stream.elim false (·.append)
  let isApp := match wfld va 60 4 with
    | 0 => match s.pageOf s.cur.ctx (va.toNat / 4096) true with
      | some (.at t _ _) => (s.findObj (t + va.toNat % 4096)).elim false fun e => app e.2.2
      | _ => false
    | 4 => (s.obj (handleDie va) (handleSlot va)).elim false app
    | 5 => (s.obj (handleDie va) (handleSlot va)).elim false app
    | _ => false
  if isApp then { f with n := min f.n 1 } else f

/-- The Flow end of a TSTF (R205, R270): its first element's role is checked here, the rest of its range by its capacity; a window 0x0 or
0x1 end has the bytes of every element, but of the first alone for an append stream. -/
def State.flowDest (s : State) (c uid : Nat) (vb : Word) (f : Foot) : Except XStop EndPt :=
  match s.endOf c uid vb .far true (some .flowWrite) { f with n := min f.n 1 } false true with
  | .error e => .error e
  | .ok e =>
    if wfld vb 60 4 ≠ 0 && wfld vb 60 4 ≠ 1 then .ok e
    else
      match s.endOf c uid vb .far true none (flowFoot s vb f) false true with
      | .error x => .error x
      | .ok k => .ok { e with bytes := k.bytes }

/-- A byte whose place is not known yet: its TSTF reserves its range when its page is present (R270; log 84). -/
def PByte.unknown : PByte → PByte
  | .virt va _ => .virt va none
  | b => b

/-- TSTF (R205, R270, R271): reserves at its issue, publishes at its completion. It waits for its context's earlier tokens, and TSTFs that
reserve later, to reach their streams. -/
def execTstf (g : BitVec 4) (w : BitVec 1) (h : BitVec 2) (a b : BitVec 5) (p : BitVec 4) (s : State) : Out :=
  .next (s.moveArgs g w h a b fun f va vb xs s =>
    let c := s.cur.ctx
    let uid := s.cx.uid
    s.withEnd (s.endOf c uid va .near false (some .read) f true true) fun src =>
    s.withEnd (s.flowDest c uid vb f) fun dst =>
    s.withEnd (s.flowOf dst vb) fun fl =>
      let m := (s.newMove .tstf h.toNat f).between src dst
      let okSrc := s.inside src.bytes
      if dst.bytes.any fun b => match b with | .remote d o => (s.redwin d o).isSome | _ => false then s.raise (roleFlt 0 vb 0)
      else
      match fl with
      | none => s.launchMove { m with dst := m.dst.map PByte.unknown } false okSrc p xs id
      | some (d, slot, o, off) =>
        let n := f.es * f.n
        match o.stream with
        | none => s.raise (roleFlt 0 (o.addr off) 0)
        | some t =>
          let at' : Word := if wfld vb 60 4 = 0 then vb else o.addr off
          let m := { m with addr := at' }
          let hd : Word := if wfld vb 60 4 = 0 then 0 else vb
          s.check (tstfCheck o t off n at' hd) fun _ =>
            if o.brk then s.launchMove { m with broken := true, dst := [] } false okSrc p xs id
            else if s.cx.speculative then
              s.launchMove { m with flow := some ⟨d, slot, off, n⟩, dst := if wfld vb 60 4 = 0 && !t.append then m.dst else [] } false okSrc p xs id
            else if s.eoss.any (fun e => e.ctx = c && e.uid = uid && (e.obj = some (d, slot) || e.dev.any fun a => a.1 = s.fabId)) then s.stall
            else if s.moves.any (fun o => o.ctx = c && o.uid = uid && o.reserves) then s.stall
            else
              match o.reserve t uid off n with
              | .refused sub => s.raise (roleFlt sub at' hd)
              | .dropped =>
                s.launchMove { m with quiet := true, dst := [] } false okSrc p xs fun s =>
                  (s.modStream d slot fun t => { t with d := t.d + f.n }).setAttn c attnEDROP
              | .at o' =>
                let bytes := if wfld vb 60 4 = 0 && !t.append then dst.bytes else s.flowBytes ⟨d, slot, o', n⟩
                s.launchMove { m with flow := some ⟨d, slot, o', n⟩, dst := bytes } false okSrc p xs fun s =>
                  s.modStream d slot fun t => t.take uid o' n)

/-- The Fold end of a TACC: its words, one an element, with their operations (R206); operation 31 stands for one that is not known here, of
a word of another device or of a page that is not present, whose address must be a multiple of the input at least (DEDUCED, log 94). -/
def State.foldEnd (s : State) (c uid : Nat) (op : Word) (f : Foot) : Except XStop (EndPt × List (Nat × BitVec 8)) :=
  match s.endOf c uid op .far true (some .fold) f true true with
  | .error e => .error e
  | .ok e =>
    let heads := (elemsOf f.es f.n e.bytes).filterMap List.head?
    let hd : Word := if wfld op 60 4 = 4 || wfld op 60 4 = 5 then op else 0
    let one (r : (PByte × Option (Nat × Nat × Nat × Nat))) : Except XStop (List PByte × (Nat × BitVec 8)) :=
      match r.1, r.2 with
      | .remote d o, _ =>
        match s.redwin d o with
        | some v =>
          if foldInput v.op ≠ f.es then bad (roleFlt 0 (op - op + BitVec.ofNat 64 (2 ^ 60 + d * 2 ^ 48 + o)) 0)
          else if o % foldWord v.op ≠ 0 then bad (wMisaligned (BitVec.ofNat 64 (2 ^ 60 + d * 2 ^ 48 + o)))
          else .ok ((span o (foldWord v.op)).map (PByte.remote d), (v.op, v.scale))
        | none => if o % f.es ≠ 0 then bad (wMisaligned (BitVec.ofNat 64 (2 ^ 60 + d * 2 ^ 48 + o))) else .ok ((span o f.es).map (PByte.remote d), (31, 0))
      | .virt va none, _ => if va % f.es ≠ 0 then bad (wMisaligned (BitVec.ofNat 64 va)) else .ok ([.virt va none], (31, 0))
      | b, some (d, slot, off, _) =>
        match s.obj d slot with
        | none => bad (roleFlt 0 op hd)
        | some ob =>
          match (ob.segAt off).elim Role.fixed (·.role) with
          | .fold k sc =>
            let at' : Word := match b with | .virt va _ => BitVec.ofNat 64 va | _ => ob.addr off
            if foldInput k ≠ f.es then bad (roleFlt 0 at' hd)
            else if (match b with | .virt va _ => va | _ => off) % foldWord k ≠ 0 then bad (wMisaligned at')
            else
              match ob.check .fold uid off (foldWord k) hd with
              | .error e => bad e
              | .ok _ => .ok ((List.range (foldWord k)).map fun i => match b with
                  | .virt va (some pa) => .virt (va + i) (some (pa + i))
                  | .at pa => .at (pa + i)
                  | b => b, (k, sc))
          | _ => bad (roleFlt 0 op hd)
      | _, none => bad (roleFlt 0 op hd)
    let runs : List (Option (Nat × Nat × Nat × Nat)) :=
      if wfld op 60 4 ≠ 0 then e.runs.map some
      else heads.map fun b => match b with
        | .virt _ (some pa) => (s.findObj pa).map fun r => (r.1, r.2.1, pa - hbmPA r.2.2.base, f.es)
        | _ => none
    match firstBad one (heads.zip runs) with
    | .error x => .error x
    | .ok l => .ok ({ e with bytes := l.flatMap fun r => r.1.take 1 }, l.map (·.2))

/-- TACC (R206): one Fold update an element. -/
def execTacc (g : BitVec 4) (w : BitVec 1) (h : BitVec 2) (a b : BitVec 5) (p : BitVec 4) (s : State) : Out :=
  .next (s.moveArgs g w h a b fun f va vb xs s =>
    let c := s.cur.ctx
    let uid := s.cx.uid
    s.withEnd (s.endOf c uid va .near false (some .read) f false true) fun src =>
    s.withEnd (s.foldEnd c uid vb f) fun d =>
      let m := { (s.newMove .tacc h.toNat f).between src d.1 with folds := d.2 }
      s.launchMove m false (s.inside src.bytes) p xs id)

/-- SLD (R217, R226, R234, R235): the buffer is written at exactly e + 6. -/
def execSld (g : BitVec 4) (w : BitVec 1) (h : BitVec 2) (a : BitVec 5) (n : BitVec 1) (s : State) : Out :=
  .next (s.guard4 g fun s => s.xFree fun s => s.readS a fun va s => s.readShape (12 + h.toNat) (w = 1) fun v xs s =>
    let f := s.foot g v 1
    if 512 < f.n then s.raise (wFootprint va)
    else
      let offs := f.terms.map fun t => (wfld va 0 22 : Int) + (f.base + t + f.lam)
      let one (o : Int) : Except XStop Nat :=
        if o < 0 || 2 ^ 22 ≤ o then bad (wLimit (va - BitVec.ofNat 64 (wfld va 0 22) + BitVec.ofInt 64 o)) else .ok (spadPA s.q o.toNat)
      if wfld va 60 4 ≠ 8 || wfld va 22 38 ≠ 0 then s.raise (wWindow va)
      else
      s.withEnd (firstBad one offs) fun as =>
        let spoil (s : State) : State :=
          let r := s.freeBits 4096
          r.2.modCx fun x => if n = 0 then { x with scaleA := Cell.of r.1 } else { x with scaleB := Cell.of r.1 }
        s.engineRead none as spoil fun bs s =>
          let mask : ScaleBuf := BitVec.ofNat 4096 (2 ^ (8 * f.n) - 1)
          let k : Write 4096 := s.mkWrite 6 true mask (BitVec.ofNat 4096 (leNat bs))
          ((s.modCx fun x => if n = 0 then { x with scaleA := x.scaleA.push k } else { x with scaleB := x.scaleB.push k }).exchange xs).retire)

/-- TTAG's range (R218). -/
def ttagRange (q : Nat) (a n : Word) : Except Flt Nat :=
  if wfld a 0 3 ≠ 0 then .error (wMisaligned a)
  else if wfld n 0 3 ≠ 0 || n.toNat < 8 || 0x100000 < n.toNat then .error (wFootprint a)
  else storeWin q a n.toNat

/-- A footprint of n single bytes. -/
def flat (n : Nat) : Foot := ⟨1, n, 1, 0, [], 0⟩

/-- TTAG (R218): ordered as a move that writes its range. -/
def execTtag (g : BitVec 4) (h : BitVec 2) (a b : BitVec 5) (s : State) : Out :=
  .next (s.guard4 g fun s => s.xFree fun s => s.readS a fun va s => s.readS b fun vb s =>
    s.check (ttagRange s.q va vb) fun pa =>
      let m := { s.newMove .ttag 5 (flat vb.toNat) with dst := (span pa vb.toNat).map PByte.at, code := h }
      if s.cx.speculative && !s.inside m.dst then s.block .speculation
      else s.launchMove m true false 0 [] id)

/-- PREQ (R219): a page request for every page of a window 0x0 range. -/
def execPreq (g : BitVec 4) (a b : BitVec 5) (p : BitVec 4) (s : State) : Out :=
  .next (s.guard4 g fun s => s.xFree fun s => s.readS a fun va s => s.readS b fun vb s =>
    if wfld va 57 7 ≠ 0 then s.raise (wWindow va)
    else if vb.toNat < 1 || 2 ^ 30 < vb.toNat then s.raise (wFootprint va)
    else if 2 ^ 57 < va.toNat + vb.toNat then s.raise (wLimit (BitVec.ofNat 64 (2 ^ 57)))
    else
      s.unlessSpec fun s =>
        let ps := pagesOf va.toNat vb.toNat
        let m := { s.newMove .preq 4 (flat 0) with pages := ps.map fun n => (n, .host) }
        let s := ps.foldl (fun s n => s.askPri (dieOf s.cur.ctx) m.pasid n) s
        s.issueMove m p [])

/-- The status writes that a TWAIT covers land at its entry (R211). -/
def Ctx.cover (x : Ctx) (e h : Nat) : Ctx :=
  let hit (k : Write 64) : Bool := k.slot = .x && 2 ^ 64 ≤ k.land && k.mask ≠ 0 && (k.land % 8 = h || k.land % 8 = 4)
  let at' (k : Write 64) : Write 64 := if hit k then { k with entry := e, lat := 0, land := e } else k
  { x with p := x.p.map fun e => (e.1, { e.2 with pend := e.2.pend.map at' }) }

/-- The completion entry of the context that an address names as its word 0, 7 for any other word (R211). -/
def ownEntry (c : Nat) (a : Word) : Nat :=
  if a = ownAddr (complOff c 0) then 0 else if a = ownAddr (complOff c 1) then 1
  else if a = ownAddr (complOff c 2) then 2 else if a = ownAddr (complOff c 3) then 3 else 7

/-- TWAIT on a word acts, or waits as a block event (R211); a move that holds the word stalls it (R213). -/
def twaitAt (va : Word) (p : BitVec 4) (s : State) : State :=
  let c := s.cur.ctx
  let uid := s.cx.uid
  if wfld va 60 4 ≠ 8 || wfld va 22 38 ≠ 0 then s.raise (wWindow va)
  else if wfld va 0 3 ≠ 0 then s.raise (wMisaligned va)
  else
    match s.waitingTldf c uid with
    | some m => if ownEntry c va = m.h then s.blockWith .twait [va] else s.stall
    | none =>
      let pa := spadPA s.q (wfld va 0 22)
      let s := s.landSlot
      if tagAt s.tags pa ≠ tagFull || s.moves.any (fun m => m.ctx = c && m.uid = uid && 4 ≤ m.h) then s.blockWith .twait [va]
      else if s.held c (span pa 8) then s.stall
      else
        let w := leNat (engineBytes s.cx s.cur.entry s.mem (span pa 8))
        let s := s.modCx fun x => x.cover s.cur.entry (ownEntry c va)
        (s.writeP p 0 (allIf 64 (fld w 0 1 = 0 && fld w 2 1 = 0))).retire

/-- TWAIT (R211). -/
def twaitOp (g : BitVec 4) (a : BitVec 5) (p : BitVec 4) (s : State) : State :=
  s.guard4 g fun s => s.readS a fun va s => twaitAt va p s

def execTwait (g : BitVec 4) (a : BitVec 5) (p : BitVec 4) (s : State) : Out := .next (twaitOp g a p s)

/-- TWAIT_WAKE (R211). -/
def execTwaitWake (c : Nat) (s : State) : Out :=
  .next (s.wake c .twait fun q => match q.syl.instr with
    | .twait _ _ p => some (twaitAt (q.op 0) p)
    | _ => none)

end Sys2Proof.Machine
end

