-- ==== Sys2Proof/Machine/Sync.lean ====
section
/-! DEFINITION. FENCE, barriers, JOIN, MSEND, EOS and HARVEST (R261-R275, R403). -/

namespace Sys2Proof.Machine

/-- The effect of BROKEN on a status predicate and FST (R266, R267). -/
def State.brokenStatus (s : State) (p : BitVec 4) : State := ((s.writeP p 0 (BitVec.allOnes 64)).flagFst 0 flagBRK).retire

/-- A context's own parked writes have no known home, so a fence of device or context scope waits for them too (R261, R276). -/
def State.ownParked (s : State) (c : Nat) : Bool := (s.core (coreOf c)).replay.any fun p => p.uid = (s.ctx c).uid

/-- FENCE's condition (R261). -/
def State.fenced (s : State) (scope c : Nat) : Bool :=
  s.performedBy scope c c (s.isOlder c s.cur.entry) &&
    (if scope = 5 || scope = 6 then s.replayEmpty c else if scope = 0 || scope = 4 then !s.ownParked c else true)

/-- FENCE (R261): its wait is a stall. -/
def execFence (sc : BitVec 3) (s : State) : Out :=
  .next (s.unlessSpec fun s =>
    let s := s.landSlot
    if s.fenced sc.toNat s.cur.ctx then s.retire else s.stall)

/-- HARVEST (R403): a FENCE system, then the dirty bits of the PASID. -/
def execHarvest (s : State) : Out :=
  .next (s.privileged fun s => s.unlessSpec fun s =>
    let s := s.landSlot
    if s.fenced 5 s.cur.ctx then (s.harvestPasid s.cx.pasid).retire else s.stall)

/-- The barrier at an address: its word A (R262, R263). -/
def barrierWin (q : Nat) (a : Word) : Except Flt Nat :=
  if wfld a 0 4 ≠ 0 || wfld a 60 4 < 8 || 11 < wfld a 60 4 then .error (wBarrier a) else storeWin q a 16

/-- The level of a home: 1 a scratchpad, 2 a cluster store, 3 a die store (R248). -/
def homeLevel (pa : Nat) : Nat := if pa < clusterPA 0 0 then 1 else if pa < diePA 0 0 then 2 else 3

/-- BARI's setting is legal for a home (R264). -/
def bariLegal (v : Word) (pa : Nat) : Bool :=
  wfld v 0 32 ≠ 0 && 1 ≤ wfld v 32 3 && wfld v 32 3 ≤ 4 && wfld v 35 29 = 0 && homeLevel pa ≤ wfld v 32 3

/-- BARI has tagged the words of a barrier FULL and set its phase to 0, which ends no wait on them (R264). -/
def State.endNoWait (s : State) (pa : Nat) : State :=
  let deaf (b : Block) : Block := if b = .tagged then .unheard else b
  let s := (s.tellWaiters pa deaf).tellWaiters (pa + 8) deaf
  let waits (x : Ctx) : Bool := x.queue.any fun d => d.left.any fun q => q.blk = some .waitb && q.word = some pa
  { s with ctxs := s.ctxs.map fun x => if waits x.2 then (x.1, { x.2 with waitP0 := some 0 }) else x }

/-- BARI (R264). A word tagged POISON becomes FULL too (DESIGN CHOICE, log 72). -/
def execBari (a b : BitVec 5) (s : State) : Out :=
  .next (s.readS a fun va s => s.readS b fun vb s => s.check (barrierWin s.q va) fun pa =>
    if !bariLegal vb pa then s.raise (wBarrier va)
    else
      s.unlessSpec fun s =>
        let s := s.landSlot
        if s.accessHeld (span pa 16) then s.stall
        else
          let m := writeNat s.mem pa 8 (wfld vb 32 3 * 2 ^ 61 + wfld vb 0 32)
          (({ s with mem := writeNat m (pa + 8) 8 (wfld vb 0 32), tags := setTags s.tags pa 16 tagFull }.overwrite s.cur.ctx 0 (span pa 16)).endNoWait pa).retire)

/-- The barrier words after an arrival (R265). -/
def arriveWord (w count : Nat) : Nat :=
  let rem := (fld w 0 32 + 2 ^ 32 - 1) % 2 ^ 32
  if rem = 0 then fld w 61 3 * 2 ^ 61 + (barPhase w + 1) % 2 ^ 29 * 2 ^ 32 + count % 2 ^ 32
  else fld w 61 3 * 2 ^ 61 + barPhase w * 2 ^ 32 + rem

/-- The context's task stands registered on a barrier in a phase (R273). -/
def Task.register (t : Task) (pa ph : Nat) : Task :=
  { t with regBars := if t.regBars.contains (pa, ph) then t.regBars else t.regBars ++ [(pa, ph)] }
def Ctx.register (x : Ctx) (pa ph : Nat) : Ctx := { x with task := x.task.map fun t => t.register pa ph }

/-- A task arrives at a barrier in a phase: it stands registered, wherever it stands, and its context's record names the arrival (R265,
R273). -/
def State.arrived (s : State) (c uid pa ph : Nat) : State :=
  let f (x : Ctx) : Ctx := { x.register pa ph with arrival := some (pa, ph) }
  if (s.ctx c).uid = uid then s.modCtx c f
  else
    let s := s.modSaved uid fun t => { t with ctx := f t.ctx }
    { s with ended := updWhere (fun e => e.task.uid = uid) (fun e => { e with task := e.task.register pa ph }) s.ended }

/-- An arrival at a barrier that is armed, for a task (R265). -/
def State.arriveAt (s : State) (c uid pa : Nat) : State :=
  let w := readNat s.mem pa 8
  ({ s with mem := writeNat s.mem pa 8 (arriveWord w (readNat s.mem (pa + 8) 4)) }.overwrite c 0 (span pa 8)).arrived c uid pa (barPhase w)

/-- ARRIVE (R265, R315): a release at the barrier's scope unless relaxed. One that is buffered registers its task at its issue, in the
phase then current (R273). -/
def execArrive (a : BitVec 5) (r : BitVec 1) (s : State) : Out :=
  .next (s.readS a fun va s => s.check (barrierWin s.q va) fun pa =>
    let t := tagAt s.tags pa
    if s.accessHeld (span pa 16) then s.landSlot.stall
    else if t = tagEmpty then s.raise (wBarrier va)
    else if t = tagPoison then s.landSlot.raiseLate 0x20 2 va
    else if s.cx.speculative then
      s.buffer (.arrive s.cur.entry pa (r = 1)) fun s =>
        let s := s.landSlot
        (s.modCx fun x => x.register pa (barPhase (readNat s.mem pa 8))).retire
    else
      let s := s.landSlot
      let act (s : State) : State :=
        if tagAt s.tags pa = tagBroken then (s.flagFst 0 flagBRK).retire
        else (s.arriveAt s.cur.ctx s.cx.uid pa).retire
      if r = 1 then act s else s.releaseFrom (fld (readNat s.mem pa 8) 61 3) (homeCtx pa) act)

/-- The phase that a WAITB waits to end (R266). -/
def Ctx.waitPhase (x : Ctx) (pa now : Nat) : Nat :=
  match x.waitP0 with
  | some p => p
  | none => match x.arrival with
    | some (a, p) => if a = pa then p else now
    | none => now

/-- WAITB at an address acts, or waits as a block event (R266). It registers its task for the phase that it waits to end (R273; DESIGN
CHOICE, log 98). -/
def waitbAt (va : Word) (p : BitVec 4) (s : State) : State :=
  s.check (barrierWin s.q va) fun pa => s.unlessSpec fun s =>
    let t := tagAt s.tags pa
    if s.accessHeld (span pa 16) then s.landSlot.stall
    else if t = tagEmpty then s.raise (wBarrier va)
    else
      let s := s.landSlot
      let ph := barPhase (readNat s.mem pa 8)
      let p0 := s.cx.waitPhase pa ph
      if t = tagPoison then s.raiseLate 0x20 2 va
      else if t = tagBroken then (s.modCx fun x => { x with waitP0 := none }).brokenStatus p
      else if ph ≠ p0 then ((s.modCx fun x => { x.register pa p0 with waitP0 := none }).writeP p 0 0).retire
      else (s.modCx fun x => { x.register pa p0 with waitP0 := some p0 }).blockOn pa .waitb [va]

/-- WAITB (R266). -/
def waitbOp (a : BitVec 5) (p : BitVec 4) (s : State) : State := s.readS a fun va s => waitbAt va p s

def execWaitb (a : BitVec 5) (p : BitVec 4) (s : State) : Out := .next (waitbOp a p s)

/-- WAITB_WAKE (R266): a waiting WAITB sees a phase change or BROKEN. -/
def execWaitbWake (c : Nat) (s : State) : Out :=
  .next (s.wakes c [
    (.waitb, fun q => match q.syl.instr with
      | .waitb _ p => some (waitbAt (q.op 0) p)
      | _ => none),
    (.broken, fun q => match q.syl.instr with
      | .waitb _ p => some fun s => (s.modCx fun x => { x with waitP0 := none }).brokenStatus p
      | _ => none)])

/-- JOIN at an address acts on the tag, or waits as a block event (R267). -/
def joinAt (va : Word) (p : BitVec 4) (s : State) : State :=
  s.check (tagWord s.q va) fun w => s.unlessSpec fun s =>
    let s := s.landSlot
    let t := tagAt s.tags w.2
    if s.accessHeld (span w.2 8) then s.stall
    else if t = tagPoison then s.raiseLate 0x20 2 w.1
    else if t = tagBroken then s.brokenStatus p
    else if t = tagFull && readNat s.mem w.2 8 = 0 then (s.writeP p 0 0).retire
    else s.blockOn w.2 .join [va]

/-- JOIN (R267). -/
def joinOp (a : BitVec 5) (p : BitVec 4) (s : State) : State := s.readS a fun va s => joinAt va p s

def execJoin (a : BitVec 5) (p : BitVec 4) (s : State) : Out := .next (joinOp a p s)

/-- JOIN_WAKE (R267). -/
def execJoinWake (c : Nat) (s : State) : Out :=
  .next (s.wakes c [
    (.join, fun q => match q.syl.instr with
      | .join _ p => some (joinAt (q.op 0) p)
      | _ => none),
    (.broken, fun q => match q.syl.instr with
      | .join _ p => some fun s => s.brokenStatus p
      | _ => none)])

/-- The first id that an asynchronous K syllable does not wait for: accesses of its own bundle are not older (R252). -/
def State.afterId (s : State) : Nat :=
  let c := s.cur.ctx
  s.moves.foldl (fun n m => if m.ctx = c && !s.isOlder c s.cur.entry m.entry m.id then min n m.id else n) s.nextId

/-- The footprint of one element at an address (R268). -/
def oneElem (n : Nat) : Foot := ⟨n, 1, 1, 0, [0], 0⟩

/-- A message of the syllable in issue. -/
def State.newMsend (s : State) (addr value : Word) (wide : Bool) : Msend :=
  { id := s.nextId, after := s.afterId, addr := addr, ctx := s.cur.ctx, uid := s.cx.uid, entry := s.cur.entry, faddr := s.cur.pc
    pos := s.cur.pos, dst := [], fold := none, obj := none, counted := false, value := value, wide := wide, sent := false, vwrite := []
    pasid := s.cx.pasid }

/-- A checked MSEND issues, or is buffered (R268, R315, R332). -/
def State.launchMsend (s : State) (m : Msend) : State :=
  let go (s : State) : State := if m.counted then m.obj.elim s s.countIn else s
  if s.cx.speculative then
    s.buffer (.msend m) fun s => { go s with nextId := s.nextId + 1 }.retire
  else { go s with msends := s.msends ++ [m], nextId := s.nextId + 1 }.retire

/-- MSEND (R268). -/
def execMsend (a b : BitVec 5) (sz : BitVec 1) (s : State) : Out :=
  .next (s.readS a fun va s => s.readS b fun vb s =>
    let wide : Bool := sz = 1
    let w := wfld va 60 4
    if 8 ≤ w && w ≤ 11 then
      s.check (scalarWin s.q va 8) fun pa =>
        if !wide then s.raise (wWindow va)
        else s.launchMsend { s.newMsend va vb wide with dst := (span pa 8).map PByte.at }
    else
      s.withEnd (s.foldEnd s.cur.ctx s.cx.uid va (oneElem (if wide then 8 else 4))) fun e =>
        if e.1.gone then (s.setAttn s.cur.ctx attnGONE).retire
        else
          s.launchMsend { s.newMsend va vb wide with
            dst := e.1.bytes
            fold := e.2.head?
            obj := (e.1.runs.head?).map fun r => (r.1, r.2.1)
            counted := e.1.obj.isSome
            vwrite := vpages e.1.bytes })

/-- The record of a fault found at the delivery of an MSEND or EOS (R359, R365). -/
def lateFault (sub cls : BitVec 8) (addr : Word) (op : BitVec 6) (entry pos : Nat) (faddr : Word) : FaultInfo :=
  ⟨cls, sub, 0, addr, 0, op, 7, pos, entry, faddr, true, true⟩

/-- The object that holds an operation's end is broken (R274). -/
def State.objBroken (s : State) (o : Option (Nat × Nat)) : Bool := o.any fun e => (s.obj e.1 e.2).elim false (·.brk)

/-- A message to another device (R268, R407). -/
def State.farMsend (s : State) (m : Msend) : Bool := s.farEnd m.dst

/-- The value of a message. -/
def Msend.word (m : Msend) : Word := if m.wide then m.value else (m.value.setWidth 32).setWidth 64

/-- The effect of an MSEND at its home (R268): as STFL, or one Fold update. The flags it sets, or the fault found. Whether the object of
another device is broken is known there: a free choice (R274). -/
def State.runMsend (s : State) (m : Msend) : Except FaultInfo (State × Word) :=
  let es := if m.wide then 8 else 4
  let bad (cls sub : BitVec 8) : Except FaultInfo (State × Word) := .error (lateFault sub cls m.addr 0x13 m.entry m.pos m.faddr)
  match m.dst.head? with
  | some (.remote d o) =>
    if d = s.fabId then
      match s.atFold (s.fkey m.pasid) m.uid o es with
      | .at d slot off broken f =>
        .ok (if broken then (s, flagBRK) else s.foldAt (hbmPA (((s.obj d slot).elim 0 (·.base)) + off)) f.1 f.2 m.word)
      | _ => bad 0x21 2
    else if m.sent then
      let there := s.freeBool
      if there.1 then .ok (there.2, flagBRK)
      else if m.fold.any (fun f => f.1 = 31) && !m.wide then
        let r := there.2.freeBits 2
        .ok (r.2, r.1.setWidth 64)
      else .ok (there.2, 0)
    else .ok (s.sendFold m.pasid d o es m.word)
  | some b =>
    match m.fold, b with
    | none, .at pa =>
      let t := tagAt s.tags pa
      if t = tagPoison then bad 0x20 2
      else if t = tagBroken then .ok (s, flagBRK)
      else .ok (s.putFull pa m.word, 0)
    | some f, b => .ok (if s.objBroken m.obj then (s, flagBRK) else s.foldTo ⟨m.ctx, m.uid, m.pasid, none, m.id⟩ b es f.1 f.2 m.word)
    | none, _ => .ok (s, 0)
  | none => .ok (s, 0)

/-- The replay queue has no room for a message's update; then its K slot stalls (R276). -/
def State.msendFull (s : State) (m : Msend) : Bool :=
  (m.dst.any fun b => (s.parks (coreOf m.ctx) m.pasid b).isSome) && replayEntries ≤ (s.core (coreOf m.ctx)).replay.length

/-- A message's update meets a range of this device's aperture that a RECAST has closed (R199). -/
def State.msendClosed (s : State) (m : Msend) : Bool :=
  match m.dst.head? with
  | some (.remote d o) => d = s.fabId && s.atFold (s.fkey m.pasid) m.uid o (if m.wide then 8 else 4) = .held
  | _ => false

/-- An MSEND can be performed: earlier ones to its word have been, older messages to its store are delivered (R404), a move holds its
word no more, and a release waits under R252 (R268). -/
def State.msendReady (s : State) (m : Msend) : Bool :=
  !(s.msends.any fun o => o.id < m.id && o.ctx = m.ctx && o.uid = m.uid && o.dst.head? = m.dst.head?) &&
    !s.undelivered m.ctx m.uid (fun _ id => id < m.id) (storesOf m.ctx (endBytes m.dst)) && !s.msendFull m && !s.msendClosed m &&
    (m.fold.isSome || match m.dst.head? with
      | some (.at pa) => !s.held m.ctx (span pa 8) && s.replayEmpty m.ctx &&
          s.performedBy (smallestScope m.ctx pa) m.ctx m.ctx (fun _ id => id < m.after)
      | _ => true)

/-- An MSEND or EOS has met a fault: its task's (R359), or the error of the committed effect that it performs (R322). -/
def State.lateStop (s : State) (id c uid : Nat) (f : FaultInfo) : State :=
  if s.commits id then s.failUnderway id { f with cls := 0x25, sub := if f.cls = 0x20 then 1 else 2, det0 := 0 } else s.faultTask c uid f

/-- A message of a context leaves the list, with its flags or its fault (R268, R359). -/
def State.endMsend (s : State) (m : Msend) (r : Except FaultInfo Word) : State :=
  let t := { s with msends := s.msends.filter fun o => o.id ≠ m.id, evTurn := true }
  let t := if m.counted then m.obj.elim t t.discharge else t
  let t := match r with
    | .ok f => t.flagTask m.ctx m.uid f 0
    | .error f => t.lateStop m.id m.ctx m.uid f
  (t.reap m.ctx).settleInvals

/-- The fault of a delivery that fails (R359, R378), and of a violation that another device reports (R268, R271). -/
def deliveryFault (err : BitVec 8) (far : Bool) (addr : Word) (op : BitVec 6) (entry pos : Nat) (faddr : Word) : Option FaultInfo :=
  if err = 3 then some (lateFault 1 0x21 addr op entry pos faddr)
  else if err = 4 && far then some (lateFault 2 0x21 addr op entry pos faddr)
  else none

/-- The cause, a code of R210, that the delivery of a message meets, zero for none; it is met once. -/
def State.meets (s : State) (id : Nat) : BitVec 8 × State :=
  let cause := s.strikes.findSome? fun k => match k with
    | .message i c => if i = id then some c else none
    | _ => none
  match cause with
  | some c => (c, { s with strikes := s.strikes.filter (· ≠ Strike.message id c) })
  | none => (0, s)

/-- MSEND_DELIVERY (R268): the message leaves for another device; its answer comes; or it acts at its home. -/
def execMsendDelivery (id : Nat) (s : State) : Out :=
  .next (match s.msends.find? fun m => m.id = id with
    | none => s
    | some m =>
      if !s.msendReady m then s
      else
        let e := s.meets id
        let err := e.1
        let s := e.2
        let far := s.farMsend m
        match deliveryFault err (far && m.sent) m.addr 0x13 m.entry m.pos m.faddr with
        | some f => s.endMsend m (.error f)
        | none =>
          match s.runMsend m with
          | .error f => s.endMsend m (.error f)
          | .ok r =>
            if far && !m.sent then
              { r.1.flagTask m.ctx m.uid r.2 0 with msends := updWhere (fun o => o.id = id) (fun o => { o with sent := true }) r.1.msends, evTurn := true }
            else r.1.endMsend m (.ok r.2))

/-- The end of an EOS (R271): object and offset checks; none for a window 0x1 address. Any address of an object with a stream is one of the
stream, but for window 0x1, where the home checks the byte for the Flow role (DESIGN CHOICE, log 102). -/
def State.eosEnd (s : State) (va : Word) : Except XStop EndPt :=
  s.endOf s.cur.ctx s.cx.uid va .far true none (oneElem 1) true true

/-- The object that an EOS names (R188, R271); a window 0x0 address of no object, or of a page that is not present, has no stream. -/
def State.eosObj (s : State) (e : EndPt) (va : Word) : Except XStop (Nat × Nat × Obj) :=
  let r : Option (Nat × Nat) := match e.runs.head?, e.bytes.head? with
    | some r, _ => some (r.1, r.2.1)
    | none, some (.virt _ (some pa)) => (s.findObj pa).map fun o => (o.1, o.2.1)
    | none, _ => none
  match r.bind fun e => (s.obj e.1 e.2).map fun o => (e.1, e.2, o) with
  | some o => .ok o
  | none => bad (roleFlt (match e.bytes.head? with | some (.virt _ (some pa)) => if inHost pa then 0 else 1 | _ => 0) va 0)

/-- An EOS of the syllable in issue. -/
def State.newEos (s : State) (addr : Word) : EosMsg :=
  { id := s.nextId, after := s.afterId, addr := addr, ctx := s.cur.ctx, uid := s.cx.uid, entry := s.cur.entry, faddr := s.cur.pc
    pos := s.cur.pos, obj := none, counted := false, dev := none, sent := false, vwrite := [], pasid := s.cx.pasid }

/-- A checked EOS issues, or is buffered (R271, R315). -/
def State.launchEos (s : State) (m : EosMsg) (bound : State → State) : State :=
  let go (s : State) : State := if m.counted then m.obj.elim s s.countIn else s
  if s.cx.speculative then s.buffer (.eos m) fun s => { go s with nextId := s.nextId + 1 }.retire
  else { go (bound s) with eoss := s.eoss ++ [m], nextId := s.nextId + 1 }.retire

/-- EOS (R269, R271). -/
def execEos (a : BitVec 5) (s : State) : Out :=
  .next (s.readS a fun va s => s.withEnd (s.eosEnd va) fun e =>
    let m := s.newEos va
    if e.gone then (s.setAttn s.cur.ctx attnGONE).retire
    else if wfld va 60 4 = 1 then
      if (s.redwin (wfld va 48 12) (wfld va 0 48)).isSome then s.raise (roleFlt 0 va 0)
      else s.launchEos { m with dev := some (wfld va 48 12, wfld va 0 48) } id
    else
      s.withEnd (s.eosObj e va) fun o =>
        let at' : Word := if wfld va 60 4 = 0 then va else o.2.2.addr 0
        let hd : Word := if wfld va 60 4 = 0 then 0 else va
        match o.2.2.stream with
        | none => s.raise (roleFlt 0 at' hd)
        | some t =>
          if !s.cx.speculative && !t.canBind s.cx.uid then s.raise (roleFlt 11 at' hd)
          else
            s.launchEos { m with obj := some (o.1, o.2.1), counted := e.obj.isSome, vwrite := vpages e.bytes } fun s =>
              s.modStream o.1 o.2.1 fun t => t.bind m.uid)

/-- An end-of-stream token of a task acts at a stream (R271, R274): the FST and ATTN flags. -/
def State.tokenAt (s : State) (d slot uid : Nat) : State × Word × Word :=
  match s.obj d slot with
  | none => (s, 0, 0)
  | some o =>
    if o.brk then (s, flagBRK, 0)
    else
      match o.stream with
      | none => (s, 0, 0)
      | some t =>
        let r := t.token uid
        (s.modStream d slot fun _ => r.1, 0, if r.2 then attnEDROP else 0)

/-- What an EOS through the own export table meets at home (R199, R271, R407). -/
def State.homeEos (s : State) (m : EosMsg) : AtHome :=
  match m.dev with
  | some (d, o) => if d = s.fabId then s.atEntry (s.fkey m.pasid) 1 .flowWrite m.uid o 1 else .bad
  | none => .bad

/-- The effect of an EOS at the stream: flags, or the fault found (R271). -/
def State.runEos (s : State) (m : EosMsg) : Except FaultInfo (State × Word × Word) :=
  let viol : Except FaultInfo (State × Word × Word) := .error (lateFault 2 0x21 m.addr 0x14 m.entry m.pos m.faddr)
  match m.dev with
  | some (d, o) =>
    if d = s.fabId then
      match s.homeEos m with
      | .at d slot _ _ _ =>
        match (s.obj d slot).bind (·.stream) with
        | some t => if t.canBind m.uid then .ok ((s.modStream d slot fun t => t.bind m.uid).tokenAt d slot m.uid) else viol
        | none => viol
      | _ => viol
    else if m.sent then
      let there := s.freeBool
      let r := there.2.freeBool
      .ok (r.2, if there.1 then flagBRK else 0, if there.1 || r.1 then 0 else attnEDROP)
    else .ok ({ s with out := s.out ++ [Msg.fabric d o (s.fkey m.pasid) (.endOfStream m.uid)] }, 0, 0)
  | none => .ok (m.obj.elim (s, 0, 0) fun e => s.tokenAt e.1 e.2 m.uid)

/-- An EOS can arrive: its release is over, earlier tokens of its context have arrived, and no RECAST has closed its range (R199, R252,
R271). -/
def State.eosReady (s : State) (m : EosMsg) : Bool :=
  s.performedBy (if m.dev.isSome then 6 else 4) m.ctx m.ctx (fun _ id => id < m.after) && s.replayEmpty m.ctx && s.homeEos m ≠ .held &&
    !s.eoss.any fun o => o.id < m.id && o.ctx = m.ctx && o.uid = m.uid && o.obj = m.obj && o.dev = m.dev

/-- A token goes to another device (R271, R407). -/
def State.farEos (s : State) (m : EosMsg) : Bool := m.dev.any fun e => e.1 ≠ s.fabId

/-- A token of a context leaves the list, with its flags or its fault. -/
def State.endEos (s : State) (m : EosMsg) (r : Except FaultInfo (Word × Word)) : State :=
  let t := { s with eoss := s.eoss.filter fun o => o.id ≠ m.id, evTurn := true }
  let t := if m.counted then m.obj.elim t t.discharge else t
  let t := match r with
    | .ok f => t.flagTask m.ctx m.uid f.1 f.2
    | .error f => t.lateStop m.id m.ctx m.uid f
  (t.reap m.ctx).settleInvals

/-- EOS_ARRIVAL (R271): a release at device scope, or fabric scope for window 0x1: the token leaves for another device; its answer comes;
or it acts at its stream. -/
def execEosArrival (id : Nat) (s : State) : Out :=
  .next (match s.eoss.find? fun m => m.id = id with
    | none => s
    | some m =>
      if !s.eosReady m then s
      else
        let e := s.meets id
        let err := e.1
        let s := e.2
        let far := s.farEos m
        match deliveryFault err (far && m.sent) m.addr 0x14 m.entry m.pos m.faddr with
        | some f => s.endEos m (.error f)
        | none =>
          match s.runEos m with
          | .error f => s.endEos m (.error f)
          | .ok r =>
            if far && !m.sent then
              { r.1 with eoss := updWhere (fun o => o.id = id) (fun o => { o with sent := true }) r.1.eoss, evTurn := true }
            else r.1.endEos m (.ok r.2))

end Sys2Proof.Machine
end

