-- ==== Sys2Proof/Machine/Tasks.lean ====
section
/-! DEFINITION. Task records, templates, SPAWN, END, choosing and stealing work, starting tasks, preludes (R285-R307, R49, R383). -/

namespace Sys2Proof.Machine

/-- A record from its eight words (R285). -/
def recOf (w : Nat → Word) : TaskRec where
  entry := w 0
  arg1 := w 1
  arg2 := w 2
  xblk := (w 3).extractLsb' 32 32
  join := (w 3).extractLsb' 0 32
  sem1 := (w 4).extractLsb' 32 32
  sem0 := (w 4).extractLsb' 0 32
  pend := (w 5).getLsbD 48
  len1 := wfld (w 5) 32 16
  len0 := wfld (w 5) 16 16
  foff := wfld (w 5) 0 16
  seq := (w 6).extractLsb' 16 48
  lk := (w 6).extractLsb' 0 16
  conds := (List.range (min 4 (wfld (w 7) 29 3))).map fun i => (w 7).extractLsb' (32 + 8 * i) 8
  depth := wfld (w 7) 24 5
  budget := wfld (w 7) 8 16
  pin := (w 7).getLsbD 7
  die := wfld (w 7) 6 1
  cluster := wfld (w 7) 3 3
  core := wfld (w 7) 0 3

/-- The core that a record's word 7 names. -/
def TaskRec.coreNum (t : TaskRec) : Nat := 64 * t.die + 8 * t.cluster + t.core

/-- A record's locators. -/
def TaskRec.locs (t : TaskRec) : List (BitVec 32) := [t.xblk, t.join, t.sem0, t.sem1]

/-- The window of a locator. -/
def locWindow (l : BitVec 32) : Nat := fld l.toNat 28 4

/-- A footprint is valid (R288). -/
def TaskRec.footOk (t : TaskRec) : Bool :=
  1 ≤ t.len0 && 64 * (t.foff + t.len0) ≤ 0x200000 && 0x200000 + 64 * (t.foff + t.len1) ≤ 0x3FFE00

/-- The first row of R292, whose words 5 and 7 are given beside the record; a free launch root's core field is not required to be
zero (R393). -/
def recValid (q : Nat) (t : TaskRec) (w5 w7 : Word) (root : Bool) : Bool :=
  wfld t.entry 0 2 = 0 && t.locs.all (fun l => l = 0 || locValid q l) && t.footOk && t.budget ≠ 0 && wfld w5 49 15 = 0 &&
    (t.pin || root || wfld w7 0 7 = 0)

/-- The second row of R292: a record pinned elsewhere names no word of the spawner's cluster or die. -/
def pinOk (q : Nat) (t : TaskRec) : Bool :=
  !t.pin || ((clusterOfCore t.coreNum = clusterOfCore q || !t.locs.any fun l => locWindow l = 9) &&
    (dieOfCore t.coreNum = dieOfCore q || !t.locs.any fun l => locWindow l = 10))

/-- The function that a cluster is assigned to; PF0 unless ASSIGN named another (R383). -/
def State.clusterFnOf (s : State) (g : Nat) : Nat := Sparse.get 0 s.clusterFn g

/-- A launch by its id, and its function. -/
def State.launchOf (s : State) (id : Nat) : Option Launch := s.launches.find? fun l => l.id = id
def State.launchFn (s : State) (id : Nat) : Nat := (s.launchOf id).elim 0 (·.fn)

/-- The template checks of a spawn through core q for a launch (R292, R383). -/
def State.templateCheck (s : State) (q launch : Nat) (t : TaskRec) (w5 w7 : Word) : Except Flt Unit :=
  if recValid q t w5 w7 false && pinOk q t && (!t.pin || s.clusterFnOf (clusterOfCore t.coreNum) = s.launchFn launch) then .ok ()
  else .error (wTemplate 0)

/-- Read the words of a template that a spawn uses (R287). -/
def State.readTemplate (s : State) (t : Nat) (k : (Nat → Word) → State → State) : State :=
  s.readCell (s.cx.csrCell (csrTT t 0)) fun w0 s => s.readCell (s.cx.csrCell (csrTT t 3)) fun w3 s =>
  s.readCell (s.cx.csrCell (csrTT t 4)) fun w4 s => s.readCell (s.cx.csrCell (csrTT t 5)) fun w5 s =>
  s.readCell (s.cx.csrCell (csrTT t 7)) fun w7 s =>
    k (fun i => match i with | 0 => w0 | 3 => w3 | 4 => w4 | 5 => w5 | 7 => w7 | _ => 0) s

/-- The JOIN checks of a spawn: a precise fault, or POISON (R292). -/
def State.joinCheck (s : State) (q : Nat) (l : BitVec 32) (k : State → State) : State :=
  match locPA q l with
  | none => k s
  | some pa =>
    if tagAt s.tags pa = tagEmpty then s.raise (wJoin (locAddr l))
    else if tagAt s.tags pa = tagPoison then s.landSlot.raiseLate 0x20 2 (locAddr l)
    else k s

/-- A window 0x8 locator as the window 0xB locator of its word on core q (R294). -/
def locShared (q : Nat) (l : BitVec 32) : BitVec 32 :=
  if locWindow l = 8 then addrLoc (BitVec.ofNat 64 (11 * 2 ^ 60 + q * 2 ^ 22 + wfld (locAddr l) 0 22)) else l

/-- Add 1 to a join word that is FULL (R294). -/
def State.incrementJoin (s : State) (q : Nat) (l : BitVec 32) : State :=
  match locPA q l with
  | none => s
  | some pa =>
    if tagAt s.tags pa = tagFull then
      { s with mem := writeNat s.mem pa 8 ((readNat s.mem pa 8 + 1) % 2 ^ 64) }.overwrite 0 0 (span pa 8)
    else s

/-- The steal units of a die probe again (R300). -/
def State.probeAgain (s : State) (d : Nat) : State :=
  { s with cores := s.cores.map fun e => if dieOfCore e.1 = d then (e.1, { e.2 with stolen := false }) else e, evTurn := true }

/-- Push a record at the newest end of a core's deque (R294); steal units of the die probe again (R300). -/
def State.pushRec (s : State) (q : Nat) (r : QRec) : State :=
  (s.modCore q fun x => { x with deque := x.deque ++ [r] }).probeAgain (dieOfCore q)

/-- The die's next sequence number (R294). -/
def State.nextSeq (s : State) (d : Nat) : BitVec 48 × State :=
  ((s.die d).nextSeq, s.modDie d fun x => { x with nextSeq := x.nextSeq + 1 })

/-- Transfer the Own segment that holds an offset to a child (R296). -/
def State.transfer (s : State) (h : Word) (off parent child : Nat) : State :=
  s.modObj (handleDie h) (handleSlot h) fun o =>
    { o with segs := (segSpans 0 o.segs).map fun g =>
        if g.1 ≤ off && off < g.2.stop then { g.2 with owner := some child, retOwner := some parent } else g.2 }

/-- The core whose deque receives a record (R293). -/
def targetCore (q : Nat) (t : TaskRec) : Nat := if t.pin then t.coreNum else q

/-- Records that a deque holds (R29). -/
def dequeRoom : Nat := 64

/-- A spawn fails at its atomic step (R293): depth, deque, conditions. -/
def State.spawnFails (s : State) (t : TaskRec) (newCond : Bool) : Bool :=
  match s.cx.task with
  | none => true
  | some p => p.trec.depth = 31 || dequeRoom ≤ (s.core (targetCore s.q t)).deque.length || (newCond && 4 ≤ p.trec.conds.length)

/-- The atomic step of a spawn that succeeds (R294): the template's record completed, with its list and likelihood and the PEND of the
issuing task's CTL; own is the handle and offset of a transfer. -/
def State.spawnNow (s : State) (ctl : Word) (t : TaskRec) (a b : Word) (conds : List (BitVec 8)) (lk : BitVec 16) (own : Option (Word × Nat))
    (p : BitVec 4) : State :=
  match s.cx.task with
  | none => s
  | some par =>
    let q := s.q
    let n := s.nextSeq (dieOfCore q)
    let s := n.2
    let r : TaskRec := { t with
      arg1 := a
      arg2 := b
      xblk := locShared q t.xblk
      join := locShared q t.join
      sem0 := locShared q t.sem0
      sem1 := locShared q t.sem1
      seq := n.1
      lk := lk
      conds := conds
      depth := par.trec.depth + 1
      pend := ctlPend ctl }
    let uid := s.nextId
    let s := { s with nextId := uid + 1, tasks := Sparse.put s.tasks uid ⟨some par.uid, false, par.launch⟩ }
    let s := s.incrementJoin q t.join
    let s := match own with
      | some e => s.transfer e.1 e.2 par.uid uid
      | none => s
    let s := s.pushRec (targetCore q t) ⟨r, uid, par.launch, some par.uid, false⟩
    (s.writeP p 0 (BitVec.allOnes 64)).retire

/-- The failure of a spawn: zero, and nothing else (R293). -/
def State.spawnNo (s : State) (p : BitVec 4) : State := (s.writeP p 0 0).retire

/-- The handle and ownership checks of SPAWN .own (R292). -/
def State.ownCheck (s : State) (a b : Word) : Except Flt Unit :=
  if wfld a 60 4 ≠ 4 || wfld a 0 16 ≠ 0 then .error (wHandle a a)
  else if !s.handleLive a then .error (wStale a a)
  else
    match s.obj (handleDie a) (handleSlot a) with
    | none => .error (wStale a a)
    | some o =>
      let off := wfld b 0 40
      match o.segAt off with
      | some g => if g.role = .own && g.owner = some s.cx.uid then .ok () else .error (roleFlt 2 (o.addr off) a)
      | none => .error (roleFlt 2 (o.addr off) a)

/-- The launch of the task in issue. -/
def State.launchId (s : State) : Nat := s.cx.task.elim 0 (·.launch)

/-- SPAWN and SPAWN .own (R291-R296); a SPAWN without .own of a speculative task with a record pinned to the other die raises the
condition fault (R312). -/
def execSpawn (t : BitVec 2) (a b : BitVec 5) (o : BitVec 1) (p : BitVec 4) (s : State) : Out :=
  .next (s.readS a fun va s => s.readS b fun vb s => s.readTemplate t.toNat fun w s =>
    let r := recOf w
    s.check (s.templateCheck s.q s.launchId r (w 5) (w 7)) fun _ =>
    (if o = 1 then s.unlessSpec else fun k => k s) fun s =>
    s.check (if o = 1 then s.ownCheck va vb else .ok ()) fun _ =>
      if o = 0 && s.cx.speculative && r.pin && r.die ≠ dieOf s.cur.ctx then s.raise (wCondition 0)
      else
        s.joinCheck s.q r.join fun s =>
          s.landSlot.release 4 fun s =>
            if s.spawnFails r false then s.spawnNo p
            else
              match s.cx.task with
              | none => s
              | some par => s.readCell (s.cx.csrCell csrCTL) fun ctl s => s.spawnNow ctl r va vb par.trec.conds par.trec.lk (if o = 1 then some (va, wfld vb 0 40) else none) p)

/-- What follows a task's end or prune for its join word, by its core (R297). -/
def State.settleEnd (s : State) (uid : Nat) (r : TaskRec) (q : Nat) : State :=
  ((s.markEnded uid).passBack uid).decrementJoin q r.join

/-- A speculative task ends: its context is free, the rest waits for its commit or prune (R297). -/
def State.endSpec (s : State) (c : Nat) (t : Task) : State :=
  let e : EndedTask := ⟨t, c, (s.ctx c).entry⟩
  { s with ended := s.ended ++ [e] }.freeCtx c

/-- END (R46, R159, R297, R358): the other syllables of its bundle have issued. It waits as a stall for the context's own
operations and, when it releases, for the replay queue. In supervisor mode it kills the task. -/
def execEndTask (s : State) : Out :=
  let c := s.cur.ctx
  .next (
    let s := s.landStores c fun _ => true
    if s.outstanding c s.cx.uid then s.stall
    else if s.cx.supervisor then s.killCtx c (some s.cx.trec)
    else
      match s.cx.task with
      | none => s
      | some t =>
        if !t.trec.conds.isEmpty then s.endSpec c t
        else if !s.replayEmpty c then s.stall
        else (s.settleEnd t.uid t.trec (coreOf c)).freeCtx c)

/-- What a semaphore allows: none while the task must wait, else whether it was BROKEN or POISON (R299, R302). -/
def State.semState (s : State) (q : Nat) (l : BitVec 32) : Option Bool :=
  match locPA q l with
  | none => some false
  | some pa =>
    let t := tagAt s.tags pa
    if t = tagBroken || t = tagPoison then some true
    else if t = tagFull && readNat s.mem pa 8 = 0 then some false
    else none

/-- Two footprints meet. -/
def footMeets (a b : TaskRec) : Bool :=
  (footprint a).any fun x => (footprint b).any fun y => x.1 < y.1 + y.2 && y.1 < x.1 + x.2 && x.2 ≠ 0 && y.2 ≠ 0

/-- The records whose footprints are taken on a core: tasks in contexts, non-speculative saved tasks, and preloads (R299, R302). -/
def State.taken (s : State) (q : Nat) : List (Nat × TaskRec) :=
  ((List.range 4).filterMap fun i => (s.ctx (4 * q + i)).task.map fun t => (t.uid, t.trec)) ++
    (s.saved.filterMap fun t => if coreOf t.home = q && !t.moved then t.ctx.task.map fun k => (k.uid, k.trec) else none) ++
    ((s.core q).deque.filterMap fun r => if r.preloaded then some (r.uid, r.trec) else none)

/-- A record's footprint is free on a core. -/
def State.footFree (s : State) (q uid : Nat) (t : TaskRec) : Bool :=
  !(s.taken q).any fun e => e.1 ≠ uid && footMeets e.2 t

/-- A record is startable on a core, apart from a free context (R299). -/
def State.startable (s : State) (q uid : Nat) (t : TaskRec) : Bool :=
  !s.committing uid && (!t.pin || t.coreNum = q) && (s.semState q t.sem0).isSome && (s.semState q t.sem1).isSome && s.footFree q uid t

/-- Step 1 of R299: the newest startable non-speculative record. -/
def State.pickLocal (s : State) (q : Nat) : Option QRec :=
  (s.core q).deque.reverse.find? fun r => r.trec.conds.isEmpty && s.startable q r.uid r.trec

/-- A record is eligible for a thief (R300, R383). -/
def State.eligible (s : State) (thief victim : Nat) (r : QRec) : Bool :=
  !r.trec.pin && r.trec.conds.isEmpty && !r.preloaded && !s.committing r.uid &&
    (clusterOfCore thief = clusterOfCore victim || !r.trec.locs.any fun l => locWindow l = 9) &&
    s.clusterFnOf (clusterOfCore thief) = s.launchFn r.launch

/-- The records that a thief may take from a victim. -/
def State.loot (s : State) (thief victim : Nat) : List QRec := (s.core victim).deque.filter fun r => s.eligible thief victim r

/-- Some other core of the thief's cluster, or of its die, holds an eligible record. -/
def State.lootIn (s : State) (thief : Nat) (near : Bool) : Bool :=
  (List.range 64).any fun i =>
    let v := 64 * dieOfCore thief + i
    v ≠ thief && (clusterOfCore v = clusterOfCore thief) = near && !(s.loot thief v).isEmpty

/-- A core has a context that holds no task and that no saved task will come back to (R371). -/
def State.contextFree (s : State) (c : Nat) : Bool :=
  (s.ctx c).task.isNone && !s.saved.any fun t => t.home = c && !t.moved
def State.anyFree (s : State) (q : Nat) : Bool := (List.range 4).any fun i => s.contextFree (4 * q + i)

/-- The records that a thief takes from a victim: half of the eligible ones, the oldest first, as far as its deque has room (R300). -/
def State.haul (s : State) (thief victim : Nat) : List QRec :=
  let loot := s.loot thief victim
  loot.take (min ((loot.length + 1) / 2) (dequeRoom - (s.core thief).deque.length))

/-- The steal unit of a core probes: it has a free context and nothing to start (R300). -/
def State.probes (s : State) (thief : Nat) : Bool := s.anyFree thief && (s.pickLocal thief).isNone && !(s.core thief).stolen

/-- STEAL (R300): the victim's records move; a unit that finds no record at any victim stops probing. -/
def execSteal (thief victim : Nat) (s : State) : Out :=
  .next (
    if thief ≠ victim && dieOfCore thief = dieOfCore victim && s.probes thief then
      let take := s.haul thief victim
      if !take.isEmpty && (clusterOfCore thief = clusterOfCore victim || !s.lootIn thief true) then
        let gone (r : QRec) : Bool := take.any fun t => t.uid = r.uid
        let s := s.modCore victim fun x => { x with deque := x.deque.filter fun r => !gone r }
        { s.modCore thief fun x => { x with deque := x.deque ++ take } with evTurn := true }
      else if s.lootIn thief true || s.lootIn thief false then s
      else s.modCore thief fun x => { x with stolen := true }
    else s)

/-- Some other core of the die holds an eligible record that is startable on a core (R299, R300). -/
def State.lootStarts (s : State) (q : Nat) : Bool :=
  (List.range 64).any fun i =>
    let v := 64 * dieOfCore q + i
    v ≠ q && (s.loot q v).any fun r => s.startable q r.uid r.trec

/-- A task that step 3 of R299 can choose: a record in a core's deque, or a saved task. -/
inductive Cand where
  | queued (core : Nat) (r : QRec)
  | saved (t : SavedTask)
  deriving DecidableEq, Repr

/-- The task record of a candidate. -/
def Cand.trec : Cand → Option TaskRec
  | .queued _ r => some r.trec
  | .saved t => t.ctx.task.map (·.trec)

/-- A candidate precedes another: greater likelihood, then lower SEQ (R299). -/
def Cand.before (a b : Cand) : Bool :=
  match a.trec, b.trec with
  | some x, some y => y.lk.toNat < x.lk.toNat || (x.lk = y.lk && x.seq.toNat < y.seq.toNat)
  | _, _ => false

/-- The best of a list of candidates. -/
def bestCand : List Cand → Option Cand
  | [] => none
  | a :: l => match bestCand l with
    | none => some a
    | some b => if b.before a then some b else some a

/-- The startable speculative tasks of a core's deque and of its cluster's directory (R299, R314). -/
def State.specCands (s : State) (q : Nat) : List Cand :=
  let recs : List Cand := (List.range 8).flatMap fun i =>
    let v := 8 * clusterOfCore q + i
    ((s.core v).deque.filter fun r => !r.trec.conds.isEmpty && (v = q || !r.trec.pin) && s.startable q r.uid r.trec).map (Cand.queued v)
  let kept : List Cand := (s.saved.filter fun t => clusterOf t.home = clusterOfCore q && t.fault.isNone &&
    t.ctx.task.any fun k => !k.trec.conds.isEmpty && (!k.trec.pin || k.trec.coreNum = q) && s.footFree q k.uid k.trec).map Cand.saved
  recs ++ kept

/-- The sequencer's choice for a core with a free context (R299, R411): step 3 comes only when no record that it could start is left to
steal. -/
def State.pick (s : State) (q : Nat) : Option Cand :=
  if (s.die (dieOfCore q)).replan then none
  else
    match s.pickLocal q with
    | some r => some (.queued q r)
    | none =>
      if !(s.core q).stolen && (s.core q).deque.length < dequeRoom && s.lootStarts q then none
      else bestCand (s.specCands q)

/-- The words of an extension block, by index from its start; a word beyond its region has none (R290). -/
def State.extWord (s : State) (q : Nat) (l : BitVec 32) (i : Nat) : Option Word :=
  let a := locAddr l + BitVec.ofNat 64 (8 * i)
  (storeWin q a 8).toOption.bind fun pa => if sameRegion a (locAddr l) then some (BitVec.ofNat 64 (readNat s.mem pa 8)) else none

/-- A produce entry is well formed (R290). -/
def produceOk (q : Nat) (v : Word) : Bool :=
  if wfld v 60 4 = 4 then wfld v 0 16 = 0
  else wfld v 0 3 = 0 && (match storeWin q v 8 with | .ok _ => true | .error _ => false)

/-- The index of the first word of an extension block that breaks R290. -/
def extDefect (q : Nat) (w : Nat → Option Word) : Option Nat :=
  let w0 := (w 0).getD 0
  let n := wfld w0 4 4
  let pre := wfld w0 0 1 = 1
  let src := (w 7).getD 0
  let d := (w 8).getD 0
  let bad (i : Nat) : Bool :=
    if i = 0 then (w 0).isNone || wfld w0 8 56 ≠ 0 || wfld w0 1 3 ≠ 0 || 6 < n
    else if i ≤ 6 then i ≤ n && ((w i).isNone || !produceOk q ((w i).getD 0))
    else if i = 7 then
      pre && ((w 7).isNone || !(if wfld src 60 4 = 4 then wfld src 0 16 = 0 else wfld src 57 7 = 0 && wfld src 0 3 = 0))
    else
      pre && ((w 8).isNone || wfld d 22 10 ≠ 0 || wfld d 0 3 ≠ 0 || wfld d 32 3 ≠ 0 || wfld d 32 21 = 0 || 0x100000 < wfld d 32 21 ||
        (wfld src 60 4 = 0 && wfld d 53 11 ≠ 0))
  (List.range 9).find? bad

/-- The prelude that an extension block describes. -/
def extPrelude (w : Nat → Option Word) : Option Prelude :=
  if wfld ((w 0).getD 0) 0 1 = 1 then
    let d := (w 8).getD 0
    some ⟨(w 7).getD 0, 4096 * wfld d 53 11, wfld d 32 21, wfld d 0 22⟩
  else none

/-- The first byte of an end that lies in a segment that is not Fixed: its address as a TLD would record it (R303, R366). -/
def State.firstLoose (s : State) (e : EndPt) : Option Word :=
  e.bytes.findSome? fun b =>
    let of (pa : Nat) (a : Obj → Nat → Word) : Option Word :=
      match s.findObj pa with
      | some (_, _, o) =>
        let off := pa - hbmPA o.base
        match o.segAt off with
        | some g => if g.role = .fixed then none else some (a o off)
        | none => none
      | none => none
    match b with
    | .at pa => of pa fun o off => o.addr off
    | .virt va (some pa) => of pa fun _ _ => BitVec.ofNat 64 va
    | _ => none

/-- The move of a prelude (R303): a dense TLD of 8-byte elements through h0. Its source must be Fixed, or host memory, which has
no role; its destination must lie in the footprint. -/
def State.preludeMove (s : State) (c : Nat) (t : Task) (p : Prelude) : Except XStop Move :=
  let q := coreOf c
  let n := p.len / 8
  let off := 64 * t.trec.foff + p.dst
  let dst := span (spadPA q off) p.len
  let f : Foot := ⟨8, n, n, 0, [], 0⟩
  let src : Except XStop EndPt :=
    if wfld p.src 60 4 = 4 then s.handleEnd t.uid (some .read) 8 p.src ((List.range n).map fun m => ((p.off + 8 * m : Nat) : Int))
    else s.globalEnd c t.uid false (some .read) 8 ((List.range n).map fun m => p.src + BitVec.ofNat 64 (8 * m))
  match src with
  | .error e => .error e
  | .ok e =>
    let soft := e.runs.find? fun r => match s.obj r.1 r.2.1 with
      | some o => (o.segsIn r.2.2.1 r.2.2.2).any fun g => g.2.role ≠ .fixed
      | none => false
    if soft.isSome then bad (roleFlt 0 ((s.firstLoose e).getD p.src) (if wfld p.src 60 4 = 4 then p.src else 0))
    else if !dst.all (fun pa => inFootprint t.trec q pa 1) then bad (wFootprint (ownAddr off))
    else
      let m : Move :=
        { id := s.nextId, ctx := c, uid := t.uid, h := 0, kind := .tld, entry := 0, es := 8, n := f.n, n0 := f.n0, src := [], dst := []
          objs := [], ends := [], flow := none, folds := [], mask := 0, soft := false, gone := false, broken := false, quiet := false
          asked := false, sent := false, passed := 0, code := 0, data := none, pages := [], vread := [], vwrite := [], pasid := t.pasid, addr := 0 }
      .ok (m.between e ⟨dst.map PByte.at, none, false, []⟩)

/-- The produce entries of a record's extension block (R290). -/
def State.extProduce (s : State) (q : Nat) (t : TaskRec) : List Word :=
  let w := s.extWord q t.xblk
  if t.xblk = 0 || (extDefect q w).isSome then [] else (List.range (wfld ((w 0).getD 0) 4 4)).map fun i => (w (i + 1)).getD 0

/-- Change the task of a context. -/
def State.modTask (s : State) (c : Nat) (f : Task → Task) : State := s.modCtx c fun x => { x with task := x.task.map f }

/-- Issue the prelude of a task that has been started (R302, R303). -/
def State.startPrelude (s : State) (c : Nat) : State :=
  match (s.ctx c).task with
  | none => s
  | some t =>
    match t.prelude with
    | none => s
    | some p =>
      let done (s : State) : State := s.modTask c fun t => { t with prelude := none }
      match s.preludeMove c t p with
      | .ok m =>
        let s := m.objs.foldl State.countIn (done s)
        { s.modCtx c fun x => { x with pages := [] } with moves := s.moves ++ [m], nextId := s.nextId + 1, evTurn := true }
      | .error (.pages l) => s.withPages c l fun s => s
      | .error .hold => s.stallCtx c
      | .error (.fault f) =>
        let s := (done (s.modCtx c fun x => { x with pages := [] })).initStart c 0
        (s.noteFault c { s.atDispatch c f.cls f.sub 0 6 0 f.det0 with det1 := f.det1 }).deliver c

/-- The index of a context over which the save areas run (R394). -/
def saveBase (base : Word) (c : Nat) : Word := base + BitVec.ofNat 64 (2 ^ 23 * c)

/-- The PART code that a context takes at its next task start (R387). -/
def State.nextPart (s : State) (c : Nat) : BitVec 3 :=
  match (s.core (coreOf c)).part.find? fun e => e.1 = c % 4 with
  | some e => e.2
  | none => ctlPart ((s.ctx c).csrCell csrCTL).settled

/-- A context at the first bundle of a task (R49, R302, R394). -/
def Ctx.started (x : Ctx) (c : Nat) (t : Task) (part : BitVec 3) (tvec base : Word) (brk : Bool) : Ctx :=
  let r := t.trec
  let x := ((x.putCsr csrCTL (part.setWidth 64 <<< 5)).putCsr csrTVEC tvec).putCsr csrTREC (saveBase base c)
  let y := x.fresh r.arg1 r.arg2 (ownAddr (64 * r.foff)) (ownAddr (64 * (r.foff + r.len0 - 1))) r.pend
  { y.putCsr csrFST (if brk then flagBRK else 0) with
    pc := r.entry
    task := some t
    fmtA := FmtSt.start
    fmtB := FmtSt.start
    scaleA := Cell.of scaleStart
    scaleB := Cell.of scaleStart
    tu := TUnit.start
    tiles := []
    mdone := []
    inHandler := false
    chkv := false
    saved := none
    preemptReq := false }

/-- Start a record in a free context (R302); with a prelude, the completion entries and the join word follow its move. -/
def State.startRec (s : State) (c : Nat) (r : QRec) : State :=
  let q := coreOf c
  let l := s.launchOf r.launch
  let brk := s.semState q r.trec.sem0 = some true || s.semState q r.trec.sem1 = some true
  let w := s.extWord q r.trec.xblk
  let named := r.trec.xblk ≠ 0
  let defect := if named then extDefect q w else none
  let ext := named && defect.isNone
  let t : Task :=
    { trec := r.trec, uid := r.uid, launch := r.launch, pasid := l.elim 0 (·.pasid), parent := r.parent
      produce := s.extProduce q r.trec
      regBars := [], extra := 0, effects := [], fault := none, dead := false
      prelude := if ext && !r.preloaded then extPrelude w else none }
  let s := s.setCtx c ((s.ctx c).started c t (s.nextPart c) (l.elim 0 (·.tvec)) (l.elim 0 (·.trecBase)) brk)
  let s := s.modCore (coreOf c) fun q => { q with part := q.part.filter fun e => e.1 ≠ c % 4 }
  let s := if t.prelude.isSome then s else s.initStart c (if r.preloaded then 1 else 0)
  match defect with
  | some i => (s.noteFault c (s.atDispatch c 0x03 11 0 0 0 (locAddr r.trec.xblk + BitVec.ofNat 64 (8 * i)))).deliver c
  | none => s

/-- Remove a record from a core's deque (R301). -/
def State.dropRec (s : State) (q uid : Nat) : State := s.modCore q fun x => { x with deque := x.deque.filter fun r => r.uid ≠ uid }

/-- TASK_START (R299, R302): a free context takes the chosen record; a started one goes on with its prelude. -/
def execTaskStart (c : Nat) (s : State) : Out :=
  .next (
    if (s.ctx c).task.isSome then s.startPrelude c
    else if !s.contextFree c then s
    else
      match s.pick (coreOf c) with
      | some (.queued v r) => { ((s.dropRec v r.uid).startRec c r).startPrelude c with evTurn := true }
      | _ => s)

/-- A queued record with a prelude that can be preloaded (R304). -/
def State.preloadable (s : State) (q uid : Nat) : Option (QRec × Prelude) :=
  match (s.core q).deque.find? fun r => r.uid = uid with
  | none => none
  | some r =>
    let w := s.extWord q r.trec.xblk
    if r.preloaded || !r.trec.conds.isEmpty || r.trec.xblk = 0 || (extDefect q w).isSome || s.anyFree q || !s.startable q uid r.trec then none
    else (extPrelude w).map fun p => (r, p)

/-- Set whether the prelude of a core's record has been preloaded. -/
def State.setPreloaded (s : State) (q uid : Nat) (b : Bool) : State :=
  { s.modCore q fun x => { x with deque := updWhere (fun o => o.uid = uid) (fun o => { o with preloaded := b }) x.deque } with
    evTurn := true }

/-- A preload keeps another task with an overlapping footprint from starting (R304). -/
def State.inTheWay (s : State) (q : Nat) (r : QRec) : Bool :=
  let t := s.setPreloaded q r.uid false
  let others : List TaskRec :=
    (((s.core q).deque.filter fun o => o.uid ≠ r.uid && t.startable q o.uid o.trec).map (·.trec)) ++ (t.specCands q).filterMap Cand.trec
  r.preloaded && others.any fun o => footMeets o r.trec

/-- The elements that a preload has written when it is abandoned: any of those that could be read (R304). -/
def someElems (es : List (Option (List Byte))) {n : Nat} (pick : BitVec n) : List (Option (List Byte)) :=
  es.mapIdx fun i e => if pick.getLsbD i then e else none

/-- Write the elements of a list that are given, and leave the others. -/
def State.writeSome (s : State) (m : Move) (es : List (Option (List Byte))) : State :=
  let bytes := ((elemsOf m.es m.n m.dst).zip es).flatMap fun e => match e.2 with
    | some l => e.1.zip l
    | none => []
  s.putBytes m.parker .bytes bytes

/-- PRELOAD (R304): the prelude of a queued task is performed ahead, or abandoned; a preload made before is abandoned when another
task must start in its place. The bytes that an abandoned preload has written stay. -/
def execPreload (q uid : Nat) (s : State) : Out :=
  .next (match s.preloadable q uid with
    | none =>
      match (s.core q).deque.find? fun r => r.uid = uid with
      | some r => if s.inTheWay q r then s.setPreloaded q uid false else s
      | none => s
    | some (r, p) =>
      let pasid := (s.launchOf r.launch).elim 0 (·.pasid)
      let t : Task := ⟨r.trec, uid, r.launch, pasid, r.parent, [], [], 0, [], none, false, none⟩
      let c := 4 * q
      let trial := s.setCtx c { Ctx.idle with task := some t }
      match trial.preludeMove c t p with
      | .error _ => s
      | .ok m =>
        let es := trial.readElems m
        let struck := s.strikes.contains (Strike.preload uid)
        let lost := (elemsOf m.es m.n m.src).map fun l => l.any fun b => match b with | .virt _ none => true | _ => false
        if m.gone then s
        else if struck || es.any Option.isNone || m.residency.2 then
          let r := s.freeBits m.n
          { r.2 with strikes := s.strikes.filter (· ≠ Strike.preload uid) }.writeSome m
            (someElems ((es.zip lost).map fun (e : Option (List Byte) × Bool) => if e.2 then none else e.1) r.1)
        else (s.writeElems m .bytes m.dst es).setPreloaded q uid true)

end Sys2Proof.Machine
end

