-- ==== Sys2Proof/Machine/Speculation.lean ====
section
/-! DEFINITION. Conditions, conditional spawns, RESOLVE, commit and prune (R308-R328). -/

namespace Sys2Proof.Machine

/-- Q1.15 products (R310). -/
def mulQ (x y : Nat) : Nat := x * y / 2 ^ 15

/-- The probability of a condition of a die. -/
def Die.prob (d : Die) (c : BitVec 8) : Nat := ((d.conds.find? fun e => e.1 = c.toNat).map (·.2.prob)).getD 0

/-- The cumulative likelihood of a list (R310). -/
def Die.product (d : Die) (l : List (BitVec 8)) : BitVec 16 := BitVec.ofNat 16 (l.foldl (fun k c => mulQ k (d.prob c)) 0x8000)

/-- A condition that is OPEN and usable by a task (R308). -/
def State.usable (s : State) (d c : Nat) (t : Task) : Option Cond :=
  match (s.die d).conds.find? fun e => e.1 = c with
  | some e => if e.2.pasid = t.pasid && e.2.launch = t.launch then some e.2 else none
  | none => none

/-- Change an OPEN condition. -/
def State.modCond (s : State) (d c : Nat) (f : Cond → Cond) : State :=
  s.modDie d fun x => { x with conds := updWhere (fun e => e.1 = c) (fun e => (e.1, f e.2)) x.conds }

/-- CNEW (R309): the lowest FREE entry. It waits for a RESOLVE of its die in progress (R319). -/
def execCnew (d : BitVec 5) (p : BitVec 4) (s : State) : Out :=
  let die := dieOf s.cur.ctx
  .next (
    if s.dieResolving die then s.stall
    else
    let s := s.landSlot
    match s.cx.task, (List.range 256).find? fun i => !((s.die die).conds.any fun e => e.1 = i) with
    | some t, some i =>
      let k : Cond := ⟨t.pasid, t.launch, t.uid, false, 0, false, 0⟩
      let s := s.modDie die fun x => { x with conds := Sparse.put x.conds i k }
      ((s.writeS d 0 (BitVec.ofNat 64 i)).writeP p 0 (BitVec.allOnes 64)).retire
    | _, _ => (s.writeP p 0 0).retire)

/-- The predictor entry of a site; 128 at reset (R313). -/
def Die.estimate (d : Die) (site : Nat) : Nat := (Sparse.get (128 : BitVec 8) d.pred site).toNat

/-- The condition operand breaks no field of R311. -/
def condFields (v : Word) : Bool :=
  wfld v 42 22 = 0 && wfld v 9 7 = 0 && (if wfld v 8 1 = 1 then wfld v 16 16 = 0 else wfld v 32 10 = 0 && wfld v 16 16 ≤ 0x8000)

/-- The condition row of R312. -/
def State.condCheck (s : State) (v : Word) (t : TaskRec) : Except Flt Unit :=
  match s.cx.task with
  | none => .error (wCondition 0)
  | some p =>
    let d := dieOf s.cur.ctx
    if condFields v && (s.usable d (wfld v 0 8) p).isSome && !p.trec.conds.contains (v.setWidth 8) && (!t.pin || t.die = d) then .ok ()
    else .error (wCondition 0)

/-- The first SPAWNC on a condition fixes its probability (R312). -/
def State.setProb (s : State) (d : Nat) (v : Word) : State :=
  let e := (s.die d).estimate (wfld v 32 10)
  s.modCond d (wfld v 0 8) fun k =>
    if k.set then k
    else if wfld v 8 1 = 1 then { k with set := true, pred := true, site := wfld v 32 10, prob := e * 0x8000 / 255 }
    else { k with set := true, pred := false, site := 0, prob := wfld v 16 16 }

/-- SPAWNC (R311, R312). It waits for a RESOLVE of its die in progress (R319). -/
def execSpawnc (t : BitVec 2) (a b c : BitVec 5) (p : BitVec 4) (s : State) : Out :=
  .next (s.readS a fun va s => s.readS b fun vb s => s.readS c fun vc s => s.readTemplate t.toNat fun w s =>
    let r := recOf w
    if s.dieResolving (dieOf s.cur.ctx) then s.stall
    else
    s.check (s.templateCheck s.q s.launchId r (w 5) (w 7)) fun _ =>
    s.check (s.condCheck vc r) fun _ =>
      s.joinCheck s.q r.join fun s =>
        let go (s : State) : State :=
          if s.spawnFails r true then s.spawnNo p
          else
            match s.cx.task with
            | none => s
            | some par =>
              let d := dieOf s.cur.ctx
              s.readCell (s.cx.csrCell csrCTL) fun ctl s =>
              let s := s.setProb d vc
              let lk := mulQ par.trec.lk.toNat ((s.die d).prob (vc.setWidth 8))
              s.spawnNow ctl r va vb (par.trec.conds ++ [vc.setWidth 8]) (BitVec.ofNat 16 lk) none p
        if s.cx.speculative then go s.landSlot else s.landSlot.release 4 go)

/-- Where a task stands. -/
inductive Place where
  | queued (core : Nat) (r : QRec)
  | held (ctx : Nat) (t : Task)
  | kept (t : SavedTask) (k : Task)
  | finished (e : EndedTask)
  deriving DecidableEq, Repr

/-- The record and id of a task in its place. -/
def Place.trec : Place → TaskRec
  | .queued _ r => r.trec
  | .held _ t => t.trec
  | .kept _ k => k.trec
  | .finished e => e.task.trec
def Place.uid : Place → Nat
  | .queued _ r => r.uid
  | .held _ t => t.uid
  | .kept _ k => k.uid
  | .finished e => e.task.uid

/-- The core through which a task's locators resolve. -/
def Place.core : Place → Nat
  | .queued q _ => q
  | .held c _ => coreOf c
  | .kept t _ => coreOf t.home
  | .finished e => coreOf e.ctx

/-- Every task of the package in its place; dead tasks have left. -/
def State.places (s : State) : List Place :=
  (s.cores.flatMap fun q => q.2.deque.map fun r => Place.queued q.1 r) ++
    (s.ctxs.filterMap fun x => x.2.task.bind fun t => if t.dead then none else some (Place.held x.1 t)) ++
    (s.saved.filterMap fun t => t.ctx.task.map fun k => Place.kept t k) ++ s.ended.map Place.finished

/-- A task by its id. -/
def State.place (s : State) (uid : Nat) : Option Place := s.places.find? fun p => p.uid = uid

/-- The tasks of a die whose list holds a condition, in ascending SEQ (R319). -/
def State.holders (s : State) (d : Nat) (c : BitVec 8) : List Place :=
  sortBy (fun p => p.trec.seq.toNat) (s.places.filter fun p => dieOfCore p.core = d && p.trec.conds.contains c)

/-- Change the records of the tasks of a die. -/
def State.mapRecs (s : State) (d : Nat) (f : TaskRec → TaskRec) : State :=
  { s with
    cores := s.cores.map fun q => if dieOfCore q.1 = d then (q.1, { q.2 with deque := q.2.deque.map fun r => { r with trec := f r.trec } }) else q
    ctxs := s.ctxs.map fun x => if dieOf x.1 = d then (x.1, { x.2 with task := x.2.task.map fun t => { t with trec := f t.trec } }) else x
    saved := s.saved.map fun t => if dieOf t.home = d then { t with ctx := { t.ctx with task := t.ctx.task.map fun k => { k with trec := f k.trec } } } else t
    ended := s.ended.map fun e => if dieOf e.ctx = d then { e with task := { e.task with trec := f e.task.trec } } else e }

/-- The footprint of a pruned task holds unspecified bytes (R323). -/
def State.scramble (s : State) (q : Nat) (t : TaskRec) : State :=
  (footprint t).foldl (fun s r =>
    ({ s with mem := writeBytes s.mem (spadPA q r.1) (freeBytes r.2 s.free), free := s.free + r.2 }).overwrite 0 0 (span (spadPA q r.1) r.2)) s

/-- Prune one task, apart from the conditions it created (R323). -/
def State.pruneOne (s : State) (p : Place) : State :=
  let s := match p with
    | .queued q r => s.dropRec q r.uid
    | .held c t => ((s.dropEffects t.effects).scramble (coreOf c) t.trec).stopCtx c
    | .kept t k => { s.dropEffects k.effects with saved := s.saved.filter fun o => o ≠ t }
    | .finished e => { s.dropEffects e.task.effects with ended := s.ended.filter fun o => o ≠ e }
  s.settleEnd p.uid p.trec p.core

/-- The predictor after a resolution (R319). -/
def State.learn (s : State) (d c : Nat) (v : Bool) : State :=
  match (s.die d).conds.find? fun e => e.1 = c with
  | some e =>
    if e.2.pred then
      let p : Int := (s.die d).estimate e.2.site
      let n := p + ((if v then 255 else 0) - p).tdiv 8
      s.modDie d fun x => { x with pred := Sparse.set 128 x.pred e.2.site (BitVec.ofInt 8 n) }
    else s
  | none => s

/-- A condition becomes FREE. -/
def State.freeCond (s : State) (d c : Nat) : State := s.modDie d fun x => { x with conds := x.conds.filter fun e => e.1 ≠ c }

/-- Resolve a condition false: prune its holders in ascending SEQ, with the conditions they created and that are OPEN, which update
no predictor entry (R319, R323). The fuel bounds the nesting by the conditions of a die. -/
def State.resolveFalse : Nat → Nat → Nat → State → State
  | 0, _, _, s => s
  | n + 1, d, c, s =>
    let s := (s.holders d (BitVec.ofNat 8 c)).foldl (fun s p =>
      match s.place p.uid with
      | none => s
      | some p =>
        let s := s.pruneOne p
        ((s.die d).conds.filter fun e => e.2.creator = p.uid).foldl (fun s e => State.resolveFalse n d e.1 s) s) s
    s.freeCond d c

/-- Conditions of a die (R308). -/
def condCount : Nat := 256

/-- Kill a saved or ended task: its record goes to the save area of its last context (R322, R359, R395). -/
def State.killKept (s : State) (t : SavedTask) (k : Task) (f : FaultInfo) : State :=
  let base := saveBase ((s.launchOf k.launch).elim 0 (·.trecBase)) t.home
  { s with saved := s.saved.filter fun o => o ≠ t }.killTask k (coreOf t.home) (some base) (trapRecord t.ctx f)
def State.killOver (s : State) (e : EndedTask) (f : FaultInfo) : State :=
  let base := saveBase ((s.launchOf e.task.launch).elim 0 (·.trecBase)) e.ctx
  { s with ended := s.ended.filter fun o => o ≠ e }.killTask e.task (coreOf e.ctx) (some base)
    (trapRecord { Ctx.idle with entry := e.entry, task := some e.task } f)

/-- A task's commit fails: it is killed, its remaining effects discarded (R322). -/
def State.commitFail (s : State) (uid : Nat) (f : FaultInfo) : State :=
  match s.place uid with
  | some (.held c t) =>
    let s := (s.dropEffects t.effects).breakTask t (coreOf c)
    (s.modTask c fun t => { t with effects := [] }).faultTask c uid f
  | some (.kept t k) => s.killKept t k f
  | some (.finished e) => s.killOver e f
  | _ => s

/-- The context that a task last held. -/
def Place.ctx : Place → Nat
  | .queued q _ => 4 * q
  | .held c _ => c
  | .kept t _ => t.home
  | .finished e => e.ctx

/-- What an effect does at commit: performed with FST and ATTN flags; sent out under an id; it must wait; or it fails (R320, R322). -/
inductive Commit where
  | done (s : State) (fst attn : Word)
  | sent (s : State) (id : Nat)
  | wait
  | fail (f : FaultInfo)
  deriving DecidableEq, Repr

/-- A release of a committed effect waits for its task's operations and its core's replay queue (R252, R320). -/
def State.commitRelease (s : State) (c uid : Nat) (k : Commit) : Commit :=
  if s.outstanding c uid || !s.replayEmpty c then .wait else k

/-- A buffered move goes out at commit, and is then in flight as any other: it parks bytes, or waits for its home, as it would have
(R276, R320, R407). Its completion was reported when it was buffered. -/
def State.sendCommit (s : State) (c : Nat) (m : Move) : Commit :=
  .sent { s with moves := s.moves ++ [{ m with ctx := c, h := 6, src := [], vread := [] }], evTurn := true } m.id

/-- A buffered Fold update takes the operation now in force at its word: its segment's role is checked again (R320, R327; DESIGN CHOICE,
log 34). At another device, in the own aperture and on a page that is not present the check comes later. -/
def State.refold (s : State) (uid es : Nat) (e : PByte × (Nat × BitVec 8)) : Except XStop (Nat × BitVec 8) :=
  let look (pa : Nat) (va : Option Nat) : Except XStop (Nat × BitVec 8) :=
    match s.findObj pa with
    | none => bad (roleFlt 1 (BitVec.ofNat 64 (va.getD 0)) 0)
    | some (_, _, o) =>
      let off := pa - hbmPA o.base
      let at' : Word := match va with | some a => BitVec.ofNat 64 a | none => o.addr off
      match (o.segAt off).map Seg.role with
      | some (.fold k sc) =>
        if o.isClosed off (foldWord k) then .error .hold
        else if foldInput k = es && off % foldWord k = 0 && (o.check .fold uid off (foldWord k) 0 matches .ok _) then .ok (k, sc)
        else bad (roleFlt 0 at' 0)
      | _ => if o.isClosed off 1 then .error .hold else bad (roleFlt 0 at' 0)
  match e.1 with
  | .at pa => look pa none
  | .virt va (some pa) => look pa (some va)
  | _ => .ok e.2

/-- What a check at commit gives: it holds the effect (R199), or fails with an address (R315, R322, R351). -/
def commitCheck {α : Type} (r : Except XStop α) (bad : Word → FaultInfo) (k : α → Commit) : Commit :=
  match r with
  | .ok a => k a
  | .error (.fault f) => .fail (bad f.det0)
  | .error _ => .wait

/-- The effect of a buffered move at commit; a TSTF makes its stream checks here (R315), a TACC its role check anew (log 34). -/
def State.commitMove (s : State) (c : Nat) (m : Move) : Commit :=
  match m.kind, m.flow with
  | .tacc, _ => commitCheck (firstBad (s.refold m.uid m.es) (m.dst.zip m.folds)) (commitFault 4) fun l => s.sendCommit c { m with folds := l }
  | .tstf, some f =>
    let stop := commitFault 4 m.addr
    match s.obj f.die f.slot with
    | none => .fail stop
    | some o =>
      if o.brk then .done (m.objs.foldl State.discharge s) flagBRK 0
      else
        match o.stream, (o.segAt f.off).any (·.role.isFlow) with
        | some t, true =>
          if o.isClosed f.off (if t.append then m.es else f.len) then .wait
          else
            match o.reserve t m.uid f.off f.len with
            | .refused _ => .fail stop
            | .dropped =>
              .done (m.objs.foldl State.discharge (s.modStream f.die f.slot fun t => { t with d := t.d + m.n })) 0 attnEDROP
            | .at off =>
              let g : FlowEnd := { f with off := off }
              let s := s.modStream f.die f.slot fun t => t.take m.uid off f.len
              s.sendCommit c { m with flow := some g, dst := if m.dst.isEmpty then s.flowBytes g else m.dst }
        | _, _ => if o.isClosed f.off 1 then .wait else .fail stop
  | _, _ => s.sendCommit c m

/-- The effect of a buffered MSEND at commit (R268, R315). -/
def State.commitMsend (s : State) (c : Nat) (m : Msend) : Commit :=
  let send (m : Msend) : Commit := .sent { s with msends := s.msends ++ [{ m with ctx := c }], evTurn := true } m.id
  match m.fold, m.dst.head? with
  | some f, some b =>
    commitCheck (s.refold m.uid (if m.wide then 8 else 4) (b, f)) (fun a => lateFault 4 0x25 a 0x13 m.entry m.pos m.faddr) fun f =>
      send { m with fold := some f }
  | _, _ => send m

/-- The effect of a buffered EOS at commit, where it binds its producer slot (R269, R271, R315). -/
def State.commitEos (s : State) (c : Nat) (m : EosMsg) : Commit :=
  let send (s : State) : Commit := .sent { s with eoss := s.eoss ++ [{ m with ctx := c }], evTurn := true } m.id
  match m.obj with
  | none => send s
  | some (d, slot) =>
    let stop (a : Word) : Commit := .fail (lateFault 4 0x25 a 0x14 m.entry m.pos m.faddr)
    match s.obj d slot with
    | none => stop m.addr
    | some o =>
      let at' : Word := if wfld m.addr 60 4 = 0 then m.addr else o.addr 0
      if o.isClosed o.flowStart 1 then .wait
      else
        match o.stream with
        | none => stop at'
        | some t => if t.canBind m.uid then send (s.modStream d slot fun t => t.bind m.uid) else stop at'

/-- One buffered effect of a task whose last context is c (R320). -/
def State.commitEffect (s : State) (c uid : Nat) (e : Effect) : Commit :=
  match e with
  | .underway id f =>
    match f with
    | some f => .fail f
    | none => if s.moves.any (·.id = id) || s.msends.any (·.id = id) || s.eoss.any (·.id = id) then .wait else .done s 0 0
  | .write _ bs | .drain _ _ bs => .done ({ s with mem := writeAll s.mem bs }.overwrite c 0 (bs.map Prod.fst)) 0 0
  | .stfl _ pa v =>
    s.commitRelease c uid (
      if tagAt s.tags pa = tagPoison then .fail (commitFault 1 0)
      else if tagAt s.tags pa = tagBroken then .done s flagBRK 0
      else .done (s.putFull pa v) 0 0)
  | .arrive _ pa relaxed =>
    let act : Commit :=
      if tagAt s.tags pa = tagBroken then .done s flagBRK 0
      else if tagAt s.tags pa = tagFull then .done (s.arriveAt c uid pa) 0 0
      else .fail (commitFault 1 0)
    if relaxed then act else s.commitRelease c uid act
  | .move m => s.commitMove c m
  | .msend m => s.commitMsend c m
  | .eos m => s.commitEos c m

/-- The effects that a task has buffered. -/
def Place.effects : Place → List Effect
  | .queued _ _ => []
  | .held _ t => t.effects
  | .kept _ k => k.effects
  | .finished e => e.task.effects

/-- Set the buffered effects of a task. -/
def State.setEffects (s : State) (uid : Nat) (l : List Effect) : State :=
  match s.place uid with
  | some (.held c _) => s.modTask c fun t => { t with effects := l }
  | some (.kept _ _) => s.modSaved uid fun t => { t with ctx := { t.ctx with task := t.ctx.task.map fun k => { k with effects := l } } }
  | some (.finished _) => { s with ended := updWhere (fun e => e.task.uid = uid) (fun e => { e with task := { e.task with effects := l } }) s.ended }
  | _ => s

/-- An error that the schedule has set for the next effect of a task that a commit performs: whether it is a fabric error (R322). -/
def State.commitStruck (s : State) (uid : Nat) : Option Bool :=
  s.strikes.findSome? fun k => match k with
    | .commit u fabric => if u = uid then some fabric else none
    | _ => none

/-- Perform a task's effects in order, as far as they need not wait; the flag says that none is left (R320). -/
def State.commitEffects (c uid : Nat) : List Effect → State → State × Bool
  | [], s => (s.setEffects uid [], true)
  | e :: l, s =>
    match (if e matches .underway _ _ then none else s.commitStruck uid) with
    | some fabric =>
      let s := { s with strikes := s.strikes.filter fun k => k ≠ Strike.commit uid fabric }
      ((s.setEffects uid (e :: l)).commitFail uid (commitFault (if fabric then 2 else 1) 0), true)
    | none =>
    match s.commitEffect c uid e with
    | .wait => (s.setEffects uid (e :: l), false)
    | .sent t id => (t.setEffects uid (.underway id none :: l), false)
    | .fail f => ((s.setEffects uid (e :: l)).commitFail uid f, true)
    | .done t fst attn => State.commitEffects c uid l (t.flagTask c uid fst attn)

/-- Bytes that the committed effects of a task have parked are not written yet. -/
def State.commitParked (s : State) (c uid : Nat) : Bool := (s.core (coreOf c)).replay.any fun p => p.uid = uid && p.commit

/-- Commit a task whose list is empty (R320): its effects, which are performed when what they have parked is written too, then what END
left. The flag says that it is complete. -/
def State.commitTask (s : State) (uid : Nat) : State × Bool :=
  match s.place uid with
  | none => (s, true)
  | some p =>
    let r := State.commitEffects p.ctx uid p.effects s
    if !r.2 then r
    else
      match r.1.place uid with
      | some (.finished e) =>
        if !r.1.replayEmpty e.ctx then (r.1, false)
        else ({ r.1 with ended := r.1.ended.filter fun o => o ≠ e }.settleEnd uid e.task.trec (coreOf e.ctx), true)
      | some (.held c _) =>
        if r.1.commitParked c uid then (r.1, false) else (r.1.modCtx c fun x => x.free .speculation, true)
      | some p => (r.1, !r.1.commitParked p.ctx uid)
      | none => (r.1, true)

/-- Commit tasks in order; those left when one must wait. -/
def State.commitAll : List Nat → State → State × List Nat
  | [], s => (s, [])
  | u :: us, s =>
    let r := s.commitTask u
    if r.2 then State.commitAll us r.1 else (r.1, u :: us)

/-- The atomic step of RESOLVE on its die (R319), up to its commits: the tasks to commit. A condition resolved true is FREE after them. -/
def State.resolveNow (s : State) (d c : Nat) (v : Bool) : State × List Nat :=
  let s := s.learn d c v
  if v then
    let k := BitVec.ofNat 8 c
    let h := s.holders d k
    let f (t : TaskRec) : TaskRec :=
      if t.conds.contains k then
        let l := t.conds.filter (· ≠ k)
        { t with conds := l, lk := (s.die d).product l }
      else t
    (s.mapRecs d f, (h.filter fun p => p.trec.conds.all (· = k)).map Place.uid)
  else (State.resolveFalse (condCount + 1) d c s, [])

/-- A RESOLVE is complete: its condition is FREE, and steal units look at the records that it has made non-speculative (R307, R319). -/
def State.endResolve (s : State) (r : ResolveSt) : State :=
  ({ s with resolves := s.resolves.filter fun o => o ≠ r }.freeCond r.die r.cond).probeAgain r.die

/-- Commits that a RESOLVE waits for go on; its tasks stay held until all are complete (R319, R320). -/
def State.advance (s : State) (r : ResolveSt) : State :=
  let p := State.commitAll r.tasks s
  if p.2.isEmpty then p.1.endResolve r else { p.1 with evTurn := true }

/-- The RESOLVE that a context has in progress. -/
def State.resolving (s : State) (c : Nat) : Option ResolveSt :=
  s.resolves.find? fun r => r.ctx = c && r.uid = (s.ctx c).uid && !(s.ctx c).supervisor

/-- RESOLVE completes once its commits have. -/
def State.finishResolve (s : State) : State := if (s.resolving s.cur.ctx).isSome then s.stall else s.retire

/-- RESOLVE (R318, R319). It waits for another of its die in progress. -/
def execResolve (a : BitVec 5) (p : BitVec 4) (s : State) : Out :=
  .next (match s.resolving s.cur.ctx with
    | some r => (s.advance r).finishResolve
    | none =>
      if s.dieResolving (dieOf s.cur.ctx) then s.stall
      else
      s.readS a fun va s => s.readP p fun vp s =>
        match s.cx.task with
        | none => s
        | some t =>
          let d := dieOf s.cur.ctx
          let c := wfld va 0 8
          if wfld va 8 56 ≠ 0 || (s.usable d c t).isNone || t.trec.conds.contains (BitVec.ofNat 8 c) then s.raise (wCondition 0)
          else
            s.unlessSpec fun s => s.landSlot.release 4 fun s =>
              let r := s.resolveNow d c (vp.getLsbD 0)
              let e : ResolveSt := ⟨s.cur.ctx, t.uid, d, c, r.2⟩
              if r.2.isEmpty then (if vp.getLsbD 0 then r.1.freeCond d c else r.1).retire
              else
                ({ r.1 with resolves := r.1.resolves ++ [e] }.advance e).finishResolve)

end Sys2Proof.Machine
end

