-- ==== Sys2Proof/Machine/Playa.lean ====
section
/-! DEFINITION. Playa: allocation, the handle instructions, reclaim, the return to the pool, and RECAST (R197-R202, R329-R350). -/

namespace Sys2Proof.Machine

/-- 4 KiB units of each die's half of HBM (R2, R329). -/
def halfUnits : Nat := hbmBytes / 2 / 4096

/-- 4 KiB units that n bytes take (R329). -/
def unitsOf (n : Nat) : Nat := (n + 4095) / 4096

/-- Units that an object table of 2^23 entries of 64 bytes takes (R329). -/
def tableUnits : Nat := 2 ^ 23 * 64 / 4096

/-- The units of the reserved range of a die that hold segment and stream records: a free number, of one or more, which leaves the pool a unit
or more (R331; log 18). -/
def recordUnits (d : Nat) : Nat := 1 + Config.recordUnits d % (halfUnits - tableUnits - 1)

/-- The reserved range of a die: first unit and units (R329). It holds the table and the records of R331; where it lies is free (log 18). -/
def reservedRange (d : Nat) : Nat × Nat :=
  let n := tableUnits + recordUnits d
  (halfUnits * d + Config.reservedStart d % (halfUnits - n + 1), n)

/-- The HBM address of a record that Playa places: a free one in the reserved range of its die, after the table (R330, R331). -/
def recordAt (d f : Nat) : BitVec 40 :=
  BitVec.ofNat 40 (4096 * ((reservedRange d).1 + tableUnits) + 8 * ((Config.freeBits 64 f).toNat % (512 * recordUnits d)))

/-- The unit ranges of a die that are taken: reserved, quarantined, and the objects that a test keeps (R329, R377). -/
def State.usedUnits (s : State) (d : Nat) (keep : Obj → Bool) : List (Nat × Nat) :=
  reservedRange d :: (s.die d).quarantine.map (fun u => (u, 1)) ++
    (((s.die d).objs.filter fun e => keep e.2).map fun e => (e.2.base / 4096, unitsOf e.2.len))

/-- n units from u on are free. -/
def unitsFree (used : List (Nat × Nat)) (u n : Nat) : Bool := used.all fun r => u + n ≤ r.1 || r.1 + r.2 ≤ u || r.2 = 0

/-- The lowest-addressed free range of n units of a die (R335). -/
def State.freeRange (s : State) (d n : Nat) (keep : Obj → Bool) : Option Nat :=
  let used := s.usedUnits d keep
  let lo := halfUnits * d
  let starts := lo :: used.map fun r => r.1 + r.2
  let fits := starts.filter fun u => lo ≤ u && u + n ≤ halfUnits + lo && unitsFree used u n
  match fits with
  | [] => none
  | a :: l => some (l.foldl min a)

/-- The free bytes of a die's pool (R344). -/
def State.freeBytesOf (s : State) (d : Nat) : Nat := 4096 * (halfUnits - ((s.usedUnits d fun _ => true).foldl (fun n r => n + r.2) 0))

/-- Slots of an object table (R329). -/
def tableSlots : Nat := 2 ^ 23

/-- The slot that HALLOC takes (R335, R347). -/
def Die.nextFree (d : Die) : Option Nat :=
  match d.freed with
  | a :: _ => some a
  | [] => if d.nextSlot < tableSlots then some d.nextSlot else none

/-- The candidates of a die in the order of reclaim (R345). -/
def State.candidates (s : State) (d : Nat) : List Nat :=
  (sortBy (fun (e : Nat × Obj) => e.2.prio.toNat * 2 ^ 90 + e.2.lru.toNat * 2 ^ 24 + e.1)
    ((s.die d).objs.filter fun e => e.2.live && e.2.recl && e.2.scount = 0)).map Prod.fst

/-- Watermark reclaim ends once the free bytes have reached HIGH or no candidate remains (R344). -/
def State.settleReclaim (s : State) (d : Nat) : State :=
  if (s.die d).reclaiming && ((s.die d).high ≤ s.freeBytesOf d || (s.candidates d).isEmpty) then
    s.modDie d fun x => { x with reclaiming := false }
  else s

/-- An object is destroyed, which may leave watermark reclaim no candidate (R344, R346). -/
def State.destroyAt (s : State) (d slot : Nat) : State := (s.destroy d slot).settleReclaim d

/-- Destroy candidates in order until a test holds (R345). -/
def State.reclaimUntil (d : Nat) (enough : State → Bool) : List Nat → State → State
  | [], s => s
  | c :: l, s => if enough s then s else State.reclaimUntil d enough l (s.destroyAt d c)

/-- A role with PARAM and SUB, from the low bits of a descriptor (R197); own is the owner and return owner. -/
def descRole (v : Word) : Role :=
  match wfld v 0 4 with
  | 0 => .fixed
  | 1 => .flow (2 ^ wfld v 8 5)
  | 2 => .flow (2 ^ wfld v 8 5)
  | 3 => .fold (wfld v 8 5) (v.extractLsb' 16 8)
  | _ => .own

/-- The zero fields of bits [31:0] of a descriptor are zero and its ROLE, SUB and PARAM are legal together (R197, R198). -/
def descOk (v : Word) : Bool :=
  let sub := wfld v 8 5
  let par := wfld v 16 8
  wfld v 13 3 = 0 && wfld v 4 4 = 0 &&
    match wfld v 0 4 with
    | 0 => sub = 0 && par = 0
    | 1 => sub ≤ 16 && par = 0
    | 2 => sub ≤ 16 && 1 ≤ par
    | 3 => sub ≤ 10 && (sub = 10 || par = 0)
    | 4 => sub = 0 && par = 0
    | _ => false

/-- A stream that a descriptor starts (R201, R336): nothing bound, with its cursors. -/
def descStream (v : Word) (c p : Nat) : Option Stream :=
  match wfld v 0 4 with
  | 1 => some ⟨c, p, p, [], false, 1, [], 0, 0, none⟩
  | 2 => some ⟨c, p, p, [], true, wfld v 16 8, [], 0, 0, none⟩
  | _ => none

/-- The identity of a Fold operation (R23, R336). -/
def foldIdentity (op : Nat) : Nat :=
  match op with
  | 2 => 0x7F800000
  | 3 => 0xFF800000
  | 6 => 0xFFFFFFFF
  | 7 => 0xFFFFFFFFFFFFFFFF
  | _ => 0

/-- What a new object holds (R336): zeros, or a Fold's identities. -/
def initBytes (r : Role) (n : Nat) : List Byte :=
  match r with
  | .fold op _ => (List.range (n / foldWord op)).flatMap fun _ => leBytes (foldWord op) (foldIdentity op)
  | _ => List.replicate n 0

/-- The checks of HALLOC (R335). -/
def hallocCheck (size desc : Word) : Except Flt Unit :=
  let flow := wfld desc 0 4 = 1 || wfld desc 0 4 = 2
  if !(descOk desc && wfld desc 24 8 = 0 && wfld desc 32 3 = 0 && wfld desc 40 24 = 0) then .error (roleFlt 3 0 0)
  else if size.toNat % 8 ≠ 0 || (flow && size.toNat % 2 ^ wfld desc 8 5 ≠ 0) then .error (roleFlt 5 0 0)
  else if size.toNat < 8 || 2 ^ 39 < size.toNat then .error (roleFlt 6 0 0)
  else .ok ()

/-- A strong handle of a slot of a die (R58, R335). -/
def strongHandle (d slot : Nat) (gen : BitVec 20) : Word :=
  BitVec.ofNat 64 (4 * 2 ^ 60 + gen.toNat * 2 ^ 40 + (d * 2 ^ 23 + slot) * 2 ^ 16)

/-- What an allocation finds: room, drains to wait for, or no memory (R335, R345). -/
inductive Alloc where
  | made (slot : Nat)
  | drains
  | full
  deriving DecidableEq, Repr

/-- Room for n units exists now, or would once destroyed objects have drained. -/
def State.roomNow (s : State) (d n : Nat) : Bool := (s.die d).nextFree.isSome && (s.freeRange d n fun _ => true).isSome
def State.roomLater (s : State) (d n : Nat) : Bool :=
  ((s.die d).nextFree.isSome || (s.die d).objs.any fun e => !e.2.live) && (s.freeRange d n (·.live)).isSome

/-- The object made in a free slot and range (R335, R336). -/
def State.makeObj (s : State) (d slot unit size : Nat) (desc : Word) (pasid : BitVec 20) (owner ret : Option Nat) : State :=
  let role := descRole desc
  let own := role = .own
  let x := s.die d
  let pin := x.pin + 1
  let o : Obj :=
    { live := true, recl := desc.getLsbD 35, brk := false, prio := desc.extractLsb' 36 4, base := 4096 * unit
      gen := Sparse.get 0 x.gens slot, len := size, scount := 1, inflight := 0, lru := pin, pasid := pasid
      segrec := recordAt d s.free, strec := if (descStream desc 0 0).isSome then recordAt d (s.free + 1) else 0
      segs := [⟨size, role, if own then owner else none, if own then ret else none⟩], stream := descStream desc 0 0, closed := [] }
  let s := s.modDie d fun x =>
    { x with
      pin := pin
      objs := Sparse.put x.objs slot o
      gens := Sparse.erase x.gens slot
      freed := x.freed.filter (· ≠ slot)
      nextSlot := if x.freed.isEmpty then max x.nextSlot (slot + 1) else x.nextSlot }
  { s with mem := writeBytes s.mem (hbmPA (4096 * unit)) (initBytes role size), free := s.free + 2 }

/-- HALLOC's action at a Playa (R335). -/
def State.allocate (s : State) (d size : Nat) (desc : Word) (pasid : BitVec 20) (owner ret : Option Nat) : State × Alloc :=
  let n := unitsOf size
  let s := if s.roomNow d n then s else State.reclaimUntil d (fun s => s.roomLater d n) (s.candidates d) s
  match (s.die d).nextFree, s.freeRange d n fun _ => true with
  | some slot, some u => (s.makeObj d slot u size desc pasid owner ret, .made slot)
  | _, _ => (s, if s.roomLater d n then .drains else .full)

/-- HALLOC of a size and a descriptor acts, or waits for drains as a block event (R335). -/
def hallocAt (d : BitVec 5) (va vb : Word) (p : BitVec 4) (s : State) : State :=
  s.check (hallocCheck va vb) fun _ =>
    s.unlessSpec fun s =>
      let s := s.landSlot
      let die := dieOf s.cur.ctx
      let t := s.cx.task
      let r := s.allocate die va.toNat vb s.cx.pasid (t.map (·.uid)) (t.bind (·.parent))
      match r.2 with
      | .made slot =>
        let gen := (r.1.obj die slot).elim 0 (·.gen)
        ((r.1.writeS d 0 (strongHandle die slot gen)).writeP p 0 (BitVec.allOnes 64)).retire
      | .drains => r.1.blockWith .reclaim [va, vb]
      | .full => (r.1.writeP p 0 0).retire

/-- HALLOC (R335). -/
def hallocOp (d a b : BitVec 5) (p : BitVec 4) (s : State) : State := s.readS a fun va s => s.readS b fun vb s => hallocAt d va vb p s

def execHalloc (d a b : BitVec 5) (p : BitVec 4) (s : State) : Out := .next (hallocOp d a b p s)

/-- RECLAIM_WAKE (R345): the HALLOC that waits for drains acts again. -/
def execReclaimWake (c : Nat) (s : State) : Out :=
  .next (s.wake c .reclaim fun q => match q.syl.instr with
    | .halloc d _ _ p => some (hallocAt d (q.op 0) (q.op 1) p)
    | _ => none)

/-- A strong handle of a live object, or the window fault (R332, R339). -/
def State.strongObj (s : State) (h : Word) : Except Flt Obj :=
  if wfld h 60 4 ≠ 4 || wfld h 0 16 ≠ 0 then .error (wHandle h h)
  else
    match s.obj (handleDie h) (handleSlot h) with
    | some o => if s.handleLive h then .ok o else .error (wStale h h)
    | none => .error (wStale h h)

/-- An Own segment whose owner is another task that has not ended (R340). -/
def State.foreignOwn (s : State) (uid : Nat) (o : Obj) : Option Nat :=
  ((segSpans 0 o.segs).find? fun g => g.2.role = .own && g.2.owner.any fun u => u ≠ uid && !(s.taskInfo u).ended).map Prod.fst

/-- HFREE (R340). -/
def execHfree (a : BitVec 5) (s : State) : Out :=
  .next (s.readS a fun h s => s.unlessSpec fun s => s.check (s.strongObj h) fun o =>
    match s.foreignOwn s.cx.uid o with
    | some off => s.raise (roleFlt 2 (o.addr off) h)
    | none => s.landSlot.release 4 fun s => (s.destroyAt (handleDie h) (handleSlot h)).retire)

/-- HPIN (R338). -/
def execHpin (d a : BitVec 5) (p : BitVec 4) (s : State) : Out :=
  .next (s.readS a fun h s =>
    if wfld h 60 4 ≠ 5 || wfld h 0 16 ≠ 0 then s.raise (wHandle h h)
    else
      s.unlessSpec fun s =>
        let die := handleDie h
        match s.obj die (handleSlot h) with
        | some o =>
          if o.live && o.gen = handleGen h then
            if o.scount = BitVec.allOnes 32 then s.raise (wCount h h)
            else
              let s := s.landSlot
              let pin := (s.die die).pin + 1
              let s := s.modDie die fun x => { x with pin := pin }
              let s := s.modObj die (handleSlot h) fun o => { o with scount := o.scount + 1, lru := pin }
              let s := s.settleReclaim die
              ((s.writeS d 0 ((4 : BitVec 4) ++ (h.extractLsb' 0 60))).writeP p 0 (BitVec.allOnes 64)).retire
          else (s.landSlot.writeP p 0 0).retire
        | none => (s.landSlot.writeP p 0 0).retire)

/-- HDROP (R339). -/
def execHdrop (a : BitVec 5) (s : State) : Out :=
  .next (s.readS a fun h s => s.unlessSpec fun s => s.check (s.strongObj h) fun o =>
    if o.scount = 0 then s.raise (wCount h h)
    else s.landSlot.release 4 fun s =>
        let s := s.modObj (handleDie h) (handleSlot h) fun o => { o with scount := o.scount - 1 }
        (if o.scount = 1 && !o.recl then s.destroyAt (handleDie h) (handleSlot h) else s).retire)

/-- HPRIO (R341). -/
def execHprio (a : BitVec 5) (k : BitVec 4) (s : State) : Out :=
  .next (s.readS a fun h s =>
    let w := wfld h 60 4
    if (w ≠ 4 && w ≠ 5) || wfld h 0 16 ≠ 0 then s.raise (wHandle h h)
    else
      s.unlessSpec fun s =>
        if w = 4 && !s.handleLive h then s.raise (wStale h h)
        else
        let s := s.landSlot
        (if s.handleLive h then s.modObj (handleDie h) (handleSlot h) fun o => { o with prio := k } else s).retire)

/-- RETURN_TO_POOL (R346, R347, R377, R380): a destroyed object whose accesses are over leaves its slot and memory. -/
def execReturnToPool (d slot : Nat) (s : State) : Out :=
  .next (match s.obj d slot with
    | some o =>
      if !o.live && o.inflight = 0 then
        let units := (List.range (unitsOf o.len)).map (o.base / 4096 + ·)
        { (s.modDie d fun x =>
            { x with
              objs := Sparse.erase x.objs slot
              gens := Sparse.set 0 x.gens slot o.gen
              freed := x.freed ++ [slot]
              quarantine := (x.quarantine ++ x.pendQuarantine.filter units.contains).eraseDups
              pendQuarantine := x.pendQuarantine.filter fun u => !units.contains u }).settleReclaim d with evTurn := true }
      else s
    | none => s)

/-- Some destroyed object of a die has drained and has not returned to the pool. -/
def State.returning (s : State) (d : Nat) : Option Nat :=
  ((s.die d).objs.find? fun e => !e.2.live && e.2.inflight = 0).map Prod.fst

/-- Watermark reclaim has something to do (R344). -/
def State.watermarkDue (s : State) (d : Nat) : Bool :=
  (s.returning d).isNone && !(s.candidates d).isEmpty &&
    (s.freeBytesOf d < (s.die d).low || ((s.die d).reclaiming && s.freeBytesOf d < (s.die d).high))

/-- WATERMARK_RECLAIM (R344, R345): the next candidate is destroyed; reclaim goes on until HIGH. -/
def execWatermarkReclaim (d : Nat) (s : State) : Out :=
  .next (if s.watermarkDue d then
      match s.candidates d with
      | c :: _ => { (s.modDie d fun x => { x with reclaiming := true }).destroyAt d c with evTurn := true }
      | [] => s
    else s.settleReclaim d)

/-- A piece of a segment up to an offset. -/
def Seg.upTo (g : Seg) (n : Nat) : Seg := { g with stop := min g.stop n }

/-- The segments of an object after a range takes one new segment (R199). -/
def recastSegs (segs : List Seg) (a n : Nat) (g : Seg) : List Seg :=
  ((segSpans 0 segs).filter fun e => e.1 < a).map (fun e => e.2.upTo a) ++ [g] ++
    (((segSpans 0 segs).filter fun e => a + n < e.2.stop).map (·.2))

/-- A range touches Flow segments of an object. -/
def Obj.touchesFlow (o : Obj) (a n : Nat) : Bool := (o.segsIn a n).any fun g => g.2.role.isFlow

/-- The range that RECAST names and its handle: die, slot, object, start (R197, R198). A window 0x0 start is translated as a write, since
RECAST changes what the range holds (DESIGN CHOICE, log 87: the spec names no access type). -/
def State.recastEnd (s : State) (va desc : Word) : Except XStop (Nat × Nat × Obj × Nat) :=
  let w := wfld va 60 4
  if !descOk desc || (w = 0 && wfld desc 24 40 ≠ 0) then bad (roleFlt 3 va 0)
  else if w = 4 then
    match s.strongObj va with
    | .ok o => .ok (handleDie va, handleSlot va, o, wfld desc 24 8 * 2 ^ 32 + wfld desc 32 32)
    | .error f => bad f
  else if w = 5 then bad (wHandle va va)
  else if w ≠ 0 || wfld va 57 3 ≠ 0 then bad (wWindow va)
  else
    match s.globalByte s.cur.ctx true va.toNat with
    | .error e => .error e
    | .ok (.virt _ (some pa)) =>
      match if inHost pa then none else s.findObj pa with
      | some r => .ok (r.1, r.2.1, r.2.2, pa - hbmPA r.2.2.base)
      | none => bad (roleFlt 1 va 0)
    | .ok _ => bad (roleFlt 1 va 0)

/-- The remaining rows of R198 for a range of an object; h is the handle of a handle range. -/
def Obj.recastCheck (o : Obj) (uid a n : Nat) (desc h : Word) : Except Flt Unit :=
  let flow := wfld desc 0 4 = 1 || wfld desc 0 4 = 2
  let es := if flow then 2 ^ wfld desc 8 5 else 1
  let fail (sub : BitVec 8) : Except Flt Unit := .error (roleFlt sub (o.addr a) h)
  if a % 8 ≠ 0 || n % 8 ≠ 0 || a % es ≠ 0 || n % es ≠ 0 then fail 5
  else if n = 0 || o.len < a + n then fail 6
  else if flow && o.stream.isSome then fail 3
  else if (o.segsIn a n).any fun g => g.2.role = .own && g.2.owner ≠ some uid then fail 2
  else if o.touchesFlow a n && !(match o.stream with | some t => a = t.c && a + n ≤ t.p | none => false) then fail 7
  else if 8 < (recastSegs o.segs a n ⟨a + n, descRole desc, none, none⟩).length then fail 8
  else .ok ()

/-- Operations in flight that touch a range of physical bytes (R199). -/
def State.touching (s : State) (pa n : Nat) : List Nat × List Nat :=
  let hit (b : PByte) : Bool := match b with
    | .at x => pa ≤ x && x < pa + n
    | .virt _ (some x) => pa ≤ x && x < pa + n
    | _ => false
  let flow (m : Move) : List PByte := m.flow.elim [] fun f => s.flowBytes f
  ((s.moves.filter fun m => m.src.any hit || m.dst.any hit || (flow m).any hit).map (·.id),
    (s.msends.filter fun m => m.dst.any hit).map (·.id))

/-- RECAST closes its range (R199 step 1, R202), and waits for the drain and for its own older writes; where another has closed it, it
waits before its checks. A speculative task's stalls before its checks, which another task's progress can change (R315, R327). -/
def execRecast (a b c : BitVec 5) (s : State) : Out :=
  .next (s.readS a fun va s => s.readS b fun vb s => s.readS c fun vc s => s.unlessSpec fun s => s.withEnd (s.recastEnd va vc) fun r =>
    let d := r.1
    let slot := r.2.1
    let o := r.2.2.1
    let start := r.2.2.2
    let h : Word := if wfld va 60 4 = 4 then va else 0
    if o.isClosed start vb.toNat then s.stall
    else
    s.check (o.recastCheck s.cx.uid start vb.toNat vc h) fun _ =>
      let s := s.landSlot
      let w := s.touching (hbmPA (o.base + start)) vb.toNat
      let e : RecastSt :=
        { ctx := s.cur.ctx, die := d, slot := slot, gen := o.gen, counted := h ≠ 0, start := start, len := vb.toNat
          role := descRole vc, append := wfld vc 0 4 = 2, n := if wfld vc 0 4 = 2 then wfld vc 16 8 else 1, moves := w.1, sends := w.2, entry := s.cur.entry }
      let s := if e.counted then s.countIn (d, slot) else s
      let s := s.modObj d slot fun o => { o with closed := o.closed ++ [(start, vb.toNat, s.cur.ctx)] }
      { s with recasts := s.recasts ++ [e] }.hold .recast)

/-- The object after the ordering point (R199 step 2, R200, R201); a new stream's record lies at rec (R330). -/
def Obj.recast (o : Obj) (r : RecastSt) (uid : Nat) (parent : Option Nat) (rec : BitVec 40) : Obj :=
  let own := r.role = .own
  let g : Seg := ⟨r.start + r.len, r.role, if own then some uid else none, if own then parent else none⟩
  let segs := recastSegs o.segs r.start r.len g
  let stop := r.start + r.len
  let stream : Option Stream :=
    if r.role.isFlow then some ⟨r.start, stop, stop, [], r.append, r.n, [], 0, 0, none⟩
    else if segs.any (·.role.isFlow) then
      o.stream.map fun t => if o.touchesFlow r.start r.len then { t with c := stop } else t
    else none
  { o with segs := segs, stream := stream, strec := if stream.isNone then 0 else if r.role.isFlow then rec else o.strec, closed := o.closed.filter fun k => k.2.2 ≠ r.ctx }

/-- The drain of a RECAST is over: every access admitted to its range before it closed, and every older write of its context
(R199, R202). -/
def State.drained (s : State) (r : RecastSt) : Bool :=
  !(s.moves.any fun m => r.moves.contains m.id) && !(s.msends.any fun m => r.sends.contains m.id) &&
    s.performedBy 6 r.ctx r.ctx (s.isOlder r.ctx r.entry) && s.replayEmpty r.ctx

/-- ORDERING_POINT (R199): the new role takes effect and RECAST completes. -/
def execOrderingPoint (c : Nat) (s : State) : Out :=
  .next (match s.recasts.find? fun r => r.ctx = c with
    | none => s
    | some r =>
      if (s.ctx c).waitsFor .recast && s.drained r then
        let t := (s.ctx c).task
        let s := if r.counted then s.discharge (r.die, r.slot) else s
        let s := match s.obj r.die r.slot with
          | some o => if o.gen = r.gen then s.modObj r.die r.slot fun o => o.recast r (t.elim 0 (·.uid)) (t.bind (·.parent)) (recordAt r.die s.free) else s
          | none => s
        let s := { s with recasts := s.recasts.filter fun o => o ≠ r, free := s.free + 1 }
        s.wake c .recast fun _ => some State.retire
      else s)

end Sys2Proof.Machine
end

