-- ==== Sys2Proof/Machine/Traps.lean ====
section
/-! DEFINITION. TRAP, BRK, CHKEQ, ERET and YIELD; pre-emption, the restore of a saved task, imprecise faults and interlocked
completions (R132, R157-R161, R353-R374). -/

namespace Sys2Proof.Machine

/-- A software trap or breakpoint: it is a precise fault of its syllable, which counts as issued where the trap is taken (R160, R353);
until then a fault at a lower entry comes before it, and the syllable issues again after that one's handler. -/
def trapOp (cls : BitVec 8) (imm : BitVec 16) (s : State) : State := s.raise ⟨cls, 0, imm, 0, 0⟩

/-- TRAP (R160). -/
def execTrap (i : BitVec 16) (s : State) : Out := .next (trapOp 0x0E i s)

/-- BRK (R160). -/
def execBrk (i : BitVec 16) (s : State) : Out := .next (trapOp 0x0F i s)

/-- CHKEQ (R374): a mismatch is noted when its fault is taken, so that a fault at a lower entry finds the check not made. -/
def execChkeq (a b : BitVec 5) (s : State) : Out :=
  .next (s.readS a fun va s => s.readS b fun vb s =>
    let x := s.cx
    if !x.chkv then
      if va = vb then s.retire
      else s.raise (flt 0x0C 0 va vb)
    else if s.cur.pc = x.chkpc && va = vb && (va = x.chka || va = x.chkb) then (s.modCx fun x => { x with chkv := false }).retire
    else s.raise (flt 0x24 0 va vb))

/-- YIELD (R161): a block event that leaves the context ready. -/
def execYield (s : State) : Out := .next (s.retire.leave s.cur.ctx)

/-- Bytes of a save area. -/
def State.area (s : State) (c : Nat) (base : Word) (off n : Nat) : List Byte := s.readVa c (base.toNat + off) n false

/-- Go on once the rows of a save area are translated; one that cannot be read kills the task (log 10). -/
def State.withArea (s : State) (c : Nat) (base : Word) (rows : List (Nat × Nat)) (k : State → State) : State :=
  let pages := (rows.flatMap fun r => pagesOf (base.toNat + r.1) r.2).eraseDups
  if wfld base 57 7 ≠ 0 then s.killCtx c none
  else s.withPages c (pages.map fun p => (p, false)) fun s =>
    if pages.all fun p => match s.pageOf c p false with
      | some (.at _ _ _) => true
      | _ => false then k s
    else s.killCtx c none

/-- The rows that every restore reads, with the in-flight record and its drain images (R357, R368). -/
def areaRows (stores : List StoreRec) (others : Nat) : List (Nat × Nat) :=
  let n := stores.length + others
  let d := stores.countP fun r => r.kind.code = 3
  [(0, 0x480), (0x400, 0x900), (0x1000, 8192), (0x8000, 576 * n), (0x11000, 16384 * d)]

/-- The engine of a code of the row at 0xC00, and the number of an optional field (log 7). -/
def codeEng : Nat → Option Eng
  | 1 => some .ma
  | 2 => some .mb
  | _ => none
def codeOpt (n : Nat) : Option Nat := if n = 0 then none else some (n - 1)

/-- The loop state from the row at 0xC00 (R368; log 7). -/
def loadLoop (b : Nat → Nat → List Byte) : Option LoopSt :=
  let f (o n : Nat) : Nat := leNat (b (0xC00 + o) n)
  let l (k : LoopKind) : LoopSt :=
    { kind := k, body := BitVec.ofNat 64 (f 8 8), len := f 2 1, count := f 16 16, stages := f 1 1, pass := f 32 16, pos := f 4 4
      started := (f 3 1).testBit 0, first := f 48 16, limit := f 64 16, draining := (f 3 1).testBit 1
      bounds := if k = .loop then [] else (List.range 6).map fun i => f (80 + 2 * i) 2 }
  match f 0 1 with
  | 1 => some (l .loop)
  | 2 => some (l .loopn)
  | 3 => some (l .loopp)
  | _ => none

/-- A context with the row at 0xC00 (R368; log 7). -/
def Ctx.loadContext (x : Ctx) (b : Nat → Nat → List Byte) : Ctx :=
  let f (o n : Nat) : Nat := leNat (b (0xC00 + o) n)
  let w (o : Nat) : Word := BitVec.ofNat 64 (f o 8)
  { x with
    loop := loadLoop b
    lend := (List.range 4).map fun i => ⟨codeEng (f (0x60 + 16 * i) 1), codeEng (f (0x61 + 16 * i) 1), f (0x68 + 16 * i) 8⟩
    arrival := (codeOpt (f 0xA0 8)).map fun p => (f 0xA8 24, p)
    waitP0 := codeOpt (f 0xC0 16)
    chka := w 0xD0
    chkb := w 0xD8
    chkpc := w 0xE0
    chkv := f 0xE8 8 ≠ 0 }

/-- A context with the row at 0xD00 (R368; log 7). -/
def Ctx.loadEngines (x : Ctx) (b : Nat → Nat → List Byte) : Ctx :=
  let f (o n : Nat) : Nat := leNat (b (0xD00 + o) n)
  let m (o : Nat) : MFmt := mfmtOf (BitVec.ofNat 3 (f o 1))
  let fmt (o : Nat) : FmtSt :=
    ⟨(m o, m (o + 1)), (m (o + 2), m (o + 3)), f (o + 8) 8, codeOpt (f (o + 16) 8), codeOpt (f (o + 24) 8)⟩
  { x with
    fmtA := fmt 0
    fmtB := fmt 32
    tu := { x.tu with
      rows := f 0x40 8
      size := BitVec.ofNat 2 (f 0x48 8)
      rc := f 0x50 8
      cc := f 0x58 8
      buf := (List.range 64).map fun i => (i, BitVec.ofNat 2048 (leNat (b (0x3400 + 256 * i) 256))) } }

/-- The zero fields of the trap record, of the rows of p0 to p11, CTL, FST and ATTN, and of n entries of the in-flight record, which
software may have written: a restore that finds one not zero is an error, as an illegal CSR value is (R11, R362, R365, R368, R369;
DESIGN CHOICE, log 88). -/
def zeroFields (b : Nat → Nat → List Byte) (n : Nat) : Bool :=
  let z (off lo k : Nat) : Bool := fld (leNat (b off 8)) lo k = 0
  z 0 10 30 && z 16 54 10 && z 16 44 4 && z 16 35 5 && z 24 32 32 && (b 96 160).all (· = 0) && (b 0x260 32).all (· = 0) &&
    z 0x280 8 56 && z 0x288 8 56 && z 0x290 4 60 &&
    (List.range n).all fun i => z (0x8000 + 576 * i) 53 3 && z (0x8000 + 576 * i) 32 16

/-- The registers and CSRs of a context from the rows of a save area (R368): status predicates of moves in flight stay pending.
Flags that asynchronous operations have set meanwhile are kept. -/
def Ctx.loadRows (x : Ctx) (b : Nat → Nat → List Byte) (fst attn : Word) (preds : List (Nat × Write 64)) (pops : List (Nat × Write 2048)) :
    Ctx :=
  let w (off : Nat) : Word := BitVec.ofNat 64 (leNat (b off 8))
  let shape (i : Nat) : Cell 512 := Cell.of (BitVec.ofNat 512 (leNat (b (0x400 + 64 * i) 64)))
  let csr := (x.csr.filter fun e => 48 ≤ e.1)
  { x with
    s := (List.range 31).map fun i => (i + 1, Cell.of (w (0x108 + 8 * i)))
    p := (List.range 11).map fun i => (i + 1, ⟨w (0x208 + 8 * i), [], (preds.filter fun e => e.1 = i + 1).map Prod.snd⟩)
    v := (List.range 32).map fun i =>
      (i, ⟨BitVec.ofNat 2048 (leNat (b (0x1000 + 256 * i) 256)), [], (pops.filter fun e => e.1 = i).map Prod.snd⟩)
    shapeA := (List.range 16).map fun i => (i, shape i)
    shapeS := (List.range 16).map fun i => (i, shape (16 + i))
    csr := [(csrCTL, Cell.of (w 0x280)), (csrFST, Cell.of (w 0x288 ||| fst)), (csrATTN, Cell.of (w 0x290 ||| attn))] ++ ((List.range 32).map fun i => (16 + i, Cell.of (w (0x300 + 8 * i)))) ++ csr }

/-- The bytes of a store's record by their offsets in the scratchpad, for given data (R131, R179, R180). -/
def StoreRec.table (r : StoreRec) (v : VReg) : List (Nat × Byte) :=
  let off (a : Word) : Nat := wfld a 0 22
  match r.kind with
  | .scalar => bytesAt (off r.base) r.mask.toNat v.toNat
  | .vst => laneBytes r.aux v ((activeLanes r.mask).map fun i => (i, off (r.base + BitVec.ofNat 64 (r.aux * i))))
  | .vstx => lastWins (laneBytes 4 v ((activeLanes r.mask).map fun i => (i, off (r.base + (lane r.offs i).setWidth 64))))
  | .mdrain _ => []

/-- A store's record with its data from the in-flight record, at addresses moved by mv. -/
def StoreRec.reload (r : StoreRec) (v : VReg) (mv : Nat → Nat) : StoreRec :=
  let t := r.table v
  { r with
    data := v
    bytes := r.bytes.map fun e => (mv e.1, ((t.find? fun k => k.1 = e.1 % 2 ^ 22).map Prod.snd).getD e.2) }

/-- The stores of the in-flight record, from entry i and drain image d on (R355, R369). -/
def loadStores (b : Nat → Nat → List Byte) (mv : Nat → Nat) : List StoreRec → Nat → Nat → List StoreRec
  | [], _, _ => []
  | r :: rs, i, d =>
    if r.kind.code = 3 then
      { r with bytes := (r.bytes.zip (b (0x11000 + 16384 * d) r.bytes.length)).map fun e => (mv e.1.1, e.2) } ::
        loadStores b mv rs (i + 1) (d + 1)
    else r.reload (BitVec.ofNat 2048 (leNat (b (0x8040 + 576 * i) 256))) mv :: loadStores b mv rs (i + 1) d

/-- The pending TRPOPs of the in-flight record, from entry i on. -/
def loadPops (b : Nat → Nat → List Byte) (i : Nat) (l : List (Nat × Write 2048)) : List (Nat × Write 2048) :=
  l.mapIdx fun j e => (e.1, { e.2 with val := BitVec.ofNat 2048 (leNat (b (0x8040 + 576 * (i + j)) 256)) })

/-- The pending SLD writes of the in-flight record, from entry i on. -/
def loadSlds (b : Nat → Nat → List Byte) (i : Nat) (l : List (Write 4096)) : List (Write 4096) :=
  l.mapIdx fun j k => { k with val := BitVec.ofNat 4096 (leNat (b (0x8040 + 576 * (i + j)) 512)) }

/-- The redirects that SSTAT.DS holds, with the targets of the trap record (R363, R365). -/
def delayRedirects (sstat : Word) (nent : Nat) (t0 t1 : Word) : List (Nat × Word) :=
  (if sstat.getLsbD 31 then [(nent + wfld sstat 29 2, t0)] else []) ++ (if sstat.getLsbD 28 then [(nent + wfld sstat 26 2, t1)] else [])

/-- The nullification marks that SSTAT.DS holds (R363). -/
def delayNulls (sstat : Word) (nent : Nat) : List Nat :=
  (if sstat.getLsbD 24 then [nent] else []) ++ (if sstat.getLsbD 25 then [nent + 1] else [])

/-- A loop whose next bundle is number p of its body; past its last bundle the pass is over (R153, R157). -/
def LoopSt.standAt (l : LoopSt) (p : Nat) : LoopSt :=
  if !l.started then l else if p < l.len then { l with pos := p } else { l with pos := 0, pass := l.pass + 1, started := false }

/-- The number of a body's bundle at an address, among n bundles that stand from address b on: n when it follows the last (log 82). -/
def State.bodyPos (s : State) (c : Nat) : Nat → Word → Word → Except FetchStop (Option Nat)
  | 0, b, a => .ok (if b = a then some 0 else none)
  | n + 1, b, a =>
    if b = a then .ok (some 0)
    else
      match s.bundleLen c 8 b with
      | .error e => .error e
      | .ok k =>
        match s.bodyPos c n (b + BitVec.ofNat 64 (4 * k)) a with
        | .error e => .error e
        | .ok p => .ok (p.map (· + 1))

/-- A context that ERET restores, whose handler has moved EPC within or past the body of its loop: the loop stands at the bundle at
that address (R157, R357; log 82). The fetches are those of s. -/
def State.settleLoop (s : State) (c : Nat) (old : Word) (x : Ctx) : Except Nat Ctx :=
  match x.loop with
  | none => .ok x
  | some l =>
    if x.pc = old then .ok x
    else
      match s.bodyPos c l.len l.body x.pc with
      | .error (.page p) => .error p
      | .error (.fault _) => .ok x
      | .ok none => .ok x
      | .ok (some p) => .ok { x with loop := some (l.standAt p), pc := if (l.standAt p).moreAt then l.body else x.pc }

/-- The context that an ERET resumes: the rows of its save area, EPC and SSTAT, and what is kept beside (R357, log 7). -/
def Ctx.eret (x : Ctx) (k : UserSave) (b : Nat → Nat → List Byte) : Ctx :=
  let w (off : Nat) : Word := BitVec.ofNat 64 (leNat (b off 8))
  let half (off : Nat) : Nat := leNat (b off 4)
  let n := k.stores.length
  let sstat := (x.csrCell csrSSTAT).settled
  let nent := half 24
  let p := n + k.pops.length
  let y := (x.loadRows b k.fst k.attn k.preds (loadPops b n k.pops)).loadContext b
  { y.putCsr csrSSTAT (sstat &&& ~~~1) with
    pc := (x.csrCell csrEPC).settled &&& ~~~3
    entry := nent
    queue := []
    pages := []
    front := (List.range 8).map fun i => (i, half (32 + 4 * i))
    syncs := k.syncs
    redirects := delayRedirects sstat nent (w 80) (w 88)
    nulls := delayNulls sstat nent
    stores := loadStores b id k.stores 0 0
    scaleA := { x.scaleA with pend := loadSlds b p k.sldA }
    scaleB := { x.scaleB with pend := loadSlds b (p + k.sldA.length) k.sldB }
    chkv := sstat.getLsbD 1
    saved := none
    inHandler := false }

/-- The handler's results have landed (R357). -/
def State.landHandler (s : State) (c : Nat) : State :=
  (s.landStores c fun _ => true).modCtx c fun x => { x with csr := x.csr.map fun e => (e.1, e.2.settle), stores := [] }

/-- ERET (R357): it waits, as a stall, for the handler's own tile moves; TCAUSE.FATAL frees the context. -/
def execEret (s : State) : Out :=
  .next (s.privileged fun s =>
    let c := s.cur.ctx
    match s.cx.saved with
    | none => s.killCtx c none
    | some k =>
      if s.moves.any fun m => m.ctx = c && m.uid = s.cx.uid && k.firstId ≤ m.id then s.stall
      else
        let s := s.landHandler c
        let base := s.cx.trec
        if (s.cx.csrCell csrTCAUSE).settled.getLsbD 9 then s.killCtx c (some base)
        else
          let others := k.pops.length + k.sldA.length + k.sldB.length
          s.withArea c base (areaRows k.stores others) fun s =>
            if !zeroFields (s.area c base) (k.stores.length + others) then s.raise (flt 0x02 2 0 0)
            else match s.settleLoop c k.pc (s.cx.eret k (s.area c base)) with
            | .error p => s.withPages c [(p, false)] fun s => s
            | .ok x => { s.setCtx c x with evTurn := true })

/-- A context stands at a point at which a pre-emption request takes effect (R157, R371): every syllable dispatched has issued or waits
on a block event, and either one waits, or dispatch stands where its loop can be left. -/
def State.preemptPoint (s : State) (c : Nat) : Bool :=
  let x := s.ctx c
  match x.task with
  | none => false
  | some t =>
    !t.dead && !x.supervisor && x.restore.isNone && t.fault.isNone && x.late.isEmpty && !s.preludeBusy c && !s.committing t.uid && (x.blocked || x.loopPoint) &&
      !(x.queue.any fun d => d.left.any Queued.goes)

/-- PREEMPTION_REQUEST (R371): it is noted, and takes effect at its point. -/
def execPreemptionRequest (c : Nat) (s : State) : Out :=
  .next (match (s.ctx c).task with
    | none => s
    | some t =>
      if t.dead then s
      else
        let s := s.modCtx c fun x => { x with preemptReq := true }
        if s.preemptPoint c then s.saveTask c none else s)

/-- A saved task may take a context (R371, R325): a task that was not speculative its own context; any other a free context of its
cluster, the sequencer's choice while it is speculative. -/
def State.canResume (s : State) (t : SavedTask) (k : Task) (c : Nat) : Bool :=
  (s.ctx c).task.isNone && !(s.die (dieOf c)).replan && !s.committing k.uid &&
    (if t.moved then
      clusterOf c = clusterOf t.home && (!k.trec.pin || k.trec.coreNum = coreOf c) && s.contextFree c && s.footFree (coreOf c) k.uid k.trec &&
        (k.trec.conds.isEmpty || (t.fault.isNone && s.pick (coreOf c) = some (.saved t)))
    else c = t.home)

/-- A saved task takes a context; its save area is read next. -/
def State.startResume (s : State) (t : SavedTask) (k : Task) (c : Nat) : State :=
  let r : Restore := ⟨t.home, t.ctx.trec, t.fault, t.moved, t.tags⟩
  let y := { t.ctx with restore := some r, pages := [] }
  let y := if t.moved then y.putCsr csrTREC (saveBase ((s.launchOf k.launch).elim 0 (·.trecBase)) c) else y
  { s with saved := s.saved.filter (fun o => o ≠ t), evTurn := true }.setCtx c y

/-- The byte of a new context's core that takes the place of one of the old context's: the same footprint offset, or the same place
in the completion entries (R371). -/
def movedByte (old new a : Nat) : Nat :=
  if inCompletion old a 1 then a - spadPA (coreOf old) (complOff old 0) + spadPA (coreOf new) (complOff new 0)
  else if inSpad (coreOf old) a then a - spadPA (coreOf old) 0 + spadPA (coreOf new) 0
  else a

/-- Write bytes of a save area into the package. -/
def State.copyArea (s : State) (c : Nat) (base : Word) (off pa n : Nat) : State :=
  { s with mem := writeBytes s.mem pa (s.area c base off n) }.overwrite c 0 (span pa n)

/-- A task saved while it was speculative takes its footprint and completion entries with it (R371). -/
def State.copyFoot (s : State) (c : Nat) (r : Restore) (t : TaskRec) : State :=
  let q := coreOf c
  let s := s.copyArea c r.base 0x7400 (spadPA q (complOff c 0)) 128
  let s := (footprint t).foldl (fun s f => s.copyArea c r.base (0x121000 + (if f.1 < 0x200000 then 0 else 64 * t.len0)) (spadPA q f.1) f.2) s
  let empty := (footprint t).foldl (fun g f => setTags g (spadPA q f.1) f.2 tagEmpty) (setTags s.tags (spadPA q (complOff c 0)) 128 tagEmpty)
  { s with tags := r.tags.foldl (fun g e => setTag g (movedByte r.home c (8 * e.1)) e.2) empty }

/-- The rows that the restore of a saved task reads besides those of areaRows (R368). -/
def resumeRows (x : Ctx) (r : Restore) (t : TaskRec) : List (Nat × Nat) :=
  let w := x.savedPart
  [(0xD00, 256), (0x3000, 1024), (0x3400, 16384), (0x21000, 16384 * w.2)] ++
    (if r.moved then [(0x7400, 128), (0x121000, 64 * (t.len0 + t.len1))] else [])

/-- A saved task's context from the rows of its save area; the in-flight record is reinjected (R371). -/
def Ctx.resumed (x : Ctx) (r : Restore) (c : Nat) (b : Nat → Nat → List Byte) : Ctx :=
  let st := x.inflightStores
  let pops := x.inflightPops
  let preds := x.p.flatMap fun e => e.2.pend.map fun k => (e.1, k)
  let n := st.length
  let p := n + pops.length
  let y := x.loadRows b (x.csrCell csrFST).settled (x.csrCell csrATTN).settled preds (loadPops b n pops)
  let y := (y.loadContext b).loadEngines b
  let scale (off i : Nat) (l : List (Write 4096)) : Cell 4096 := ⟨BitVec.ofNat 4096 (leNat (b off 512)), [], loadSlds b i l⟩
  { y with
    stores := loadStores b (movedByte r.home c) st 0 0
    scaleA := scale 0x3000 p x.scaleA.pend
    scaleB := scale 0x3200 (p + x.scaleA.pend.length) x.scaleB.pend
    restore := none
    pages := [] }

/-- The restore of a task that has taken a context: once its save area is read, it goes on, or its held fault is delivered (R324). One
whose zero fields are not zero cannot be restored (DESIGN CHOICE, log 88). -/
def State.finishResume (s : State) (c : Nat) : State :=
  let x := s.ctx c
  match x.restore, x.task with
  | some r, some t =>
    let others := x.inflightPops.length + x.scaleA.pend.length + x.scaleB.pend.length
    s.withArea c r.base (areaRows x.inflightStores others ++ resumeRows x r t.trec) fun s =>
      let x := s.ctx c
      let b := s.area c r.base
      if !zeroFields b (x.inflightStores.length + others) then s.killCtx c none
      else
      let w := x.savedPart
      let y := x.resumed r c b
      let s := s.copyArea c r.base 0x21000 (tilePA (coreOf c) w.1 0) (16384 * w.2)
      let s := if r.moved then s.copyFoot c r t.trec else s
      let s := { s.setCtx c y with evTurn := true }
      match r.fault with
      | some f => (s.noteFault c f).deliver c
      | none => s.deliver c
  | _, _ => s

/-- RESUME (R371): a saved task takes a context, or one that has taken it goes on with its restore. -/
def execResume (uid c : Nat) (s : State) : Out :=
  .next (
    if (s.ctx c).restore.isSome && (s.ctx c).uid = uid then s.finishResume c
    else
      match s.saved.find? fun t => t.ctx.uid = uid with
      | none => s
      | some t =>
        match t.ctx.task with
        | none => s
        | some k => if s.canResume t k c then (s.startResume t k c).finishResume c else s)

/-- IMPRECISE_FAULT (R203, R359): a fault that a unit of a context has met is detected: the one of the faults not detected that the
event names. -/
def execImpreciseFault (c : Nat) (cls sub : BitVec 8) (addr : Word) (s : State) : Out :=
  .next (match (s.ctx c).late.find? fun k => k.2.cls = cls && k.2.sub = sub && k.2.det0 = addr with
    | none => s
    | some k => (s.modCtx c fun x => { x with late := k :: x.late }).detect c)

/-- INTERLOCKED_COMPLETION (R132): the interlocked access that a context waits for completes. -/
def execInterlockedCompletion (c : Nat) (s : State) : Out :=
  .next (s.wake c .interlocked fun q => some (interlockedScalar q))

end Sys2Proof.Machine
end

