-- ==== Sys2Proof/Machine/Mailbox.lean ====
section
/-! DEFINITION. The mailbox: registers, the command ring, completion records, MSI-X vectors (R384-R391). -/

namespace Sys2Proof

/-- The fields of word 0 of a command (R386). -/
def Command.op (c : Command) : BitVec 8 := c.w0.extractLsb' 56 8
def Command.acq (c : Command) : Bool := c.w0.getLsbD 50
def Command.rel (c : Command) : Bool := c.w0.getLsbD 49
def Command.cr (c : Command) : Bool := c.w0.getLsbD 48
def Command.pasid (c : Command) : BitVec 20 := c.w0.extractLsb' 28 20
def Command.user (c : Command) : BitVec 16 := c.w0.setWidth 16

/-- Words 1 to 7 by number. -/
def Command.word (c : Command) (i : Nat) : Word :=
  match i with
  | 1 => c.w1
  | 2 => c.w2
  | 3 => c.w3
  | 4 => c.w4
  | 5 => c.w5
  | 6 => c.w6
  | 7 => c.w7
  | _ => c.w0

/-- A command that a PF0 function alone may issue (R386). -/
def pf0Only (op : BitVec 8) : Bool := 0x10 ≤ op.toNat && op.toNat ≤ 0x15

/-- How many operand words a command has (R386). -/
def operands (op : BitVec 8) : Option Nat :=
  match op.toNat with
  | 1 => some 5
  | 2 => some 5
  | 3 => some 1
  | 4 => some 5
  | 5 => some 1
  | 6 => some 0
  | 7 => some 2
  | 8 => some 6
  | 9 => some 6
  | 10 => some 0
  | 11 => some 0
  | 12 => some 2
  | 16 => some 3
  | 17 => some 2
  | 18 => some 3
  | 19 => some 1
  | 20 => some 1
  | 21 => some 2
  | _ => none

/-- The zero fields of word 0, the words that a command does not have, and ACQ and REL outside the copies (R386, R388); the PF0
commands but FKEY have no PASID. -/
def Command.formed (c : Command) : Bool :=
  Machine.wfld c.w0 51 5 = 0 && Machine.wfld c.w0 16 12 = 0 &&
    (match operands c.op with
      | none => false
      | some n => [1, 2, 3, 4, 5, 6, 7].all fun i => i ≤ n || c.word i = 0) &&
    (c.op = 1 || c.op = 2 || (!c.acq && !c.rel)) && (!pf0Only c.op || c.op = 0x14 || c.pasid = 0)

end Sys2Proof

namespace Sys2Proof.Machine

/-- Functions: PF0 and VF1 to VF16 (R381). -/
def functions : Nat := 17

/-- A register write that breaks a field: no effect, and REGERR (R385). -/
def State.regError (s : State) (fn : Nat) : State := s.modFn fn fun f => { f with regErr := true }

/-- A function exists. -/
def State.atFn (s : State) (fn : Nat) (k : State) : State := if fn < functions then { k with evTurn := true } else s

/-- Keep the first n commands of a function that have arrived. -/
def keepFirst (fn : Nat) : Nat → List (Nat × Nat) → List (Nat × Nat)
  | _, [] => []
  | n, (f, k) :: l =>
    if f = fn then (if min k n = 0 then [] else [(f, min k n)]) ++ keepFirst fn (n - k) l else (f, k) :: keepFirst fn n l

/-- Of a function n commands have arrived and are not applied: new ones come last (R387). -/
def arrive (l : List (Nat × Nat)) (fn n : Nat) : List (Nat × Nat) :=
  let known := (l.filter fun a => a.1 = fn).foldl (fun k a => k + a.2) 0
  if known < n then l ++ [(fn, n - known)] else keepFirst fn n l

/-- The oldest command of a function that has arrived is no longer to be applied. -/
def leaveFirst (fn : Nat) : List (Nat × Nat) → List (Nat × Nat)
  | [] => []
  | (f, k) :: l => if f = fn then (if k ≤ 1 then l else (f, k - 1) :: l) else (f, k) :: leaveFirst fn l

/-- TAIL (R385): the commands up to it have arrived (R387). -/
def execTailWrite (fn : Nat) (v : Word) (s : State) : Out :=
  .next (s.atFn fn (if wfld v 16 48 = 0 then
      let n := (v.setWidth 16 - (s.fn fn).head).toNat
      { s with arrivals := arrive s.arrivals fn n }.modFn fn fun f => { f with tail := v.setWidth 16 }
    else s.regError fn))

/-- CPLHEAD (R385). -/
def execCplheadWrite (fn : Nat) (v : Word) (s : State) : Out :=
  .next (s.atFn fn (if wfld v 16 48 = 0 then s.modFn fn fun f => { f with cplHead := v.setWidth 16 } else s.regError fn))

/-- STATE (R385): RUN is set, REGERR cleared by writing 1; RECOVERY is read only. -/
def execStateWrite (fn : Nat) (v : Word) (s : State) : Out :=
  .next (s.atFn fn (if wfld v 3 61 = 0 then
      s.modFn fn fun f => { f with run := v.getLsbD 0, regErr := f.regErr && !v.getLsbD 2 }
    else s.regError fn))

/-- MSI-X vectors of a function (R381). -/
def vectors : Nat := 2048

/-- A vector's state; at reset nothing is armed or pending. -/
def State.vector (s : State) (fn v : Nat) : VecSt := Sparse.get ⟨0, 0, false, 0, 0⟩ (s.fn fn).vecs v

/-- Change a vector. -/
def State.modVec (s : State) (fn v : Nat) (f : VecSt → VecSt) : State :=
  let x := f (s.vector fn v)
  s.modFn fn fun r => { r with vecs := Sparse.put r.vecs v x }

/-- VARM (R385, R391): writing 1 arms; PENDING is read only. -/
def execVarmWrite (fn vec : Nat) (v : Word) (s : State) : Out :=
  .next (s.atFn fn (if vectors ≤ vec then s
    else if wfld v 48 16 ≠ 0 || wfld v 1 31 ≠ 0 then s.regError fn
    else if v.getLsbD 0 then s.modVec fn vec fun x => { x with arm := true }
    else s))

/-- RINGBASE and CPLBASE (R385). -/
def State.baseWrite (s : State) (fn : Nat) (v : Word) (f : FnRegs → FnRegs) : State :=
  if wfld v 0 12 = 0 then s.modFn fn f else s.regError fn

/-- RINGSIZE and CPLSIZE (R385). -/
def State.sizeWrite (s : State) (fn : Nat) (v : Word) (f : FnRegs → FnRegs) : State :=
  if 6 ≤ v.toNat && v.toNat ≤ 16 then s.modFn fn f else s.regError fn

/-- VCOAL (R385). -/
def State.coalWrite (s : State) (fn vec : Nat) (v : Word) : State :=
  if wfld v 24 40 = 0 then s.modVec fn vec fun x => { x with count := v.extractLsb' 16 8, window := v.setWidth 16 } else s.regError fn

/-- REGISTER_WRITE (R385): any other register; a read-only register, and an offset that holds none, take no write. -/
def execRegisterWrite (fn off : Nat) (v : Word) (s : State) : Out :=
  .next (s.atFn fn (
    if off = 0x00 then s.baseWrite fn v fun f => { f with ringBase := v }
    else if off = 0x08 then s.sizeWrite fn v fun f => { f with ringSize := v.toNat }
    else if off = 0x20 then s.baseWrite fn v fun f => { f with cplBase := v }
    else if off = 0x28 then s.sizeWrite fn v fun f => { f with cplSize := v.toNat }
    else if 0x1000 ≤ off && off < 0x1000 + 16 * vectors && off % 16 = 0 then s.coalWrite fn ((off - 0x1000) / 16) v
    else s))

/-- A vector can send its message (R391). -/
def State.vecDue (s : State) (fn v : Nat) : Bool :=
  let x := s.vector fn v
  x.arm && x.pending ≠ 0 && (max x.count.toNat 1 ≤ x.pending.toNat || x.window.toNat ≤ (s.tick - x.oldest).toNat)

/-- MSI_X_MESSAGE (R391). -/
def execMsiXMessage (fn vec : Nat) (s : State) : Out :=
  .next (if s.vecDue fn vec then
      { s.modVec fn vec (fun x => { x with arm := false, pending := 0 }) with out := s.out ++ [.msix fn vec], evTurn := true }
    else s)

/-- A record signals a vector (R391). -/
def State.signal (s : State) (fn vec : Nat) : State :=
  s.modVec fn vec fun x => { x with pending := x.pending + 1, oldest := if x.pending = 0 then s.tick else x.oldest }

/-- The next free slot of a completion ring exists (R385). With 2^16 slots equal pointers mean an empty ring (DESIGN CHOICE, log 107). -/
def FnRegs.slotFree (f : FnRegs) : Bool := (f.cplTail - f.cplHead).toNat < 2 ^ f.cplSize

/-- The 32 bytes of a completion record (R389). -/
def record (op status : BitVec 8) (pasid : BitVec 20) (user : BitVec 16) (result detail : Word) (index : BitVec 16) : List Byte :=
  leBytes 8 (op.toNat * 2 ^ 56 + status.toNat * 2 ^ 48 + pasid.toNat * 2 ^ 28 + user.toNat) ++ leBytes 8 result.toNat ++
    leBytes 8 detail.toNat ++ leBytes 8 index.toNat

/-- Write a record to a function's completion ring (R389). -/
def State.writeRecord (s : State) (fn : Nat) (bytes : List Byte) : State :=
  let f := s.fn fn
  let a := ioPA fn (f.cplBase.toNat + 32 * (f.cplTail.toNat % 2 ^ f.cplSize))
  { s with mem := writeBytes s.mem a bytes }.modFn fn fun f => { f with cplTail := f.cplTail + 1 }

/-- The command that a function's ring holds at HEAD (R385, R386). -/
def State.ringCommand (s : State) (fn : Nat) : Command :=
  let f := s.fn fn
  let a := ioPA fn (f.ringBase.toNat + 64 * (f.head.toNat % 2 ^ f.ringSize))
  let w (i : Nat) : Word := BitVec.ofNat 64 (readNat s.mem (a + 8 * i) 8)
  ⟨w 0, w 1, w 2, w 3, w 4, w 5, w 6, w 7⟩

/-- Some function's command is in application: commands are applied one at a time (R387). -/
def State.engineBusy (s : State) : Bool := s.fns.any fun f => f.2.waiting.isSome

/-- The engine applies commands of a function: it runs, holds one, and has a slot for its record (R385). -/
def State.served (s : State) (fn : Nat) : Bool :=
  let f := s.fn fn
  fn < functions && f.run && f.head ≠ f.tail && f.slotFree

/-- A function's next command can be applied: of those of the functions that are served it arrived first (R385, R387). -/
def State.hasCommand (s : State) (fn : Nat) : Bool :=
  s.served fn && !s.engineBusy && (match s.arrivals.find? fun a => s.served a.1 with
    | some a => a.1 = fn
    | none => true)

/-- A command is in application, with a slot for its record (R385), or is the one that the engine applies next. -/
def State.applies (s : State) (fn : Nat) (c : Command) : Bool :=
  ((s.fn fn).waiting = some c && (s.fn fn).slotFree) || (s.hasCommand fn && s.ringCommand fn = c)

/-- The command waits: it stays in application. -/
def State.await (s : State) (fn : Nat) (c : Command) : State := { s.modFn fn fun f => { f with waiting := some c } with evTurn := true }

/-- A command leaves the ring. -/
def State.popCommand (s : State) (fn : Nat) : State :=
  { s.modFn fn fun f => { f with head := f.head + 1, waiting := none, acquired := false, flag := none, placing := none, pages := [] } with
    arrivals := leaveFirst fn s.arrivals, evTurn := true }

/-- A command completes with a status (R389, R390). -/
def State.finish (s : State) (fn : Nat) (c : Command) (status : BitVec 8) (result detail : Word) : State :=
  let i := (s.fn fn).head
  let s := s.popCommand fn
  if c.cr || c.op = 3 then s.writeRecord fn (record c.op status c.pasid c.user result detail i) else s

/-- A function may issue a command in its PASID (R383, R386). -/
def State.permits (s : State) (fn : Nat) (c : Command) : Bool :=
  if pf0Only c.op then fn = 0 else (s.fn fn).pasids.contains c.pasid

/-- What every command does: in recovery only FWLOAD and ATTEST apply (R409); then the form, the operands' ranges, the permission;
then it acts. -/
def State.apply (s : State) (fn : Nat) (c : Command) (op : BitVec 8) (ranges : Bool) (k : State) : State :=
  if c.op ≠ op || !s.applies fn c then s
  else if s.recovery && op ≠ 0x0C && op ≠ 0x15 then s.finish fn c 9 0 0
  else if !c.formed || !ranges then s.finish fn c 3 0 0
  else if !s.permits fn c then s.finish fn c 4 0 0
  else k

/-- The answer at hand for a page that a function's command accesses. -/
def State.mailPage (s : State) (fn page : Nat) (write : Bool) : Option XRes :=
  ((s.fn fn).pages.find? fun p => p.page = page && p.write = write).map PageRes.res

/-- Go on once every page that a command accesses has its answer; until then ask through the ATS unit of die 0, and wait. -/
def State.withMail (s : State) (fn : Nat) (c : Command) (reqs : List (Nat × Bool)) (k : State) : State :=
  match reqs.find? fun r => (s.mailPage fn r.1 r.2).isNone with
  | some r => (s.askPage 0 c.pasid r.1 r.2 [] [fn]).await fn c
  | none => k

/-- The accesses of n bytes at an address. -/
def spanPages (a n : Nat) (write : Bool) : List (Nat × Bool) := (pagesOf a n).map fun p => (p, write)

/-- The physical number of a byte that a command accesses; none when its translation failed. A host end reaches host memory only,
since the device answers no access to its own aperture (R382). -/
def State.mailPA (s : State) (fn va : Nat) (write host : Bool) : Option Nat :=
  match s.mailPage fn (va / 4096) write with
  | some (.at t _ _) => let pa := t + va % 4096
    if host && !inHost pa then none else some pa
  | _ => none

/-- The physical numbers of n bytes that a command accesses, or the first address that fails. -/
def State.mailBytes (s : State) (fn : Nat) (write host : Bool) : List Nat → Except Nat (List Nat)
  | [] => .ok []
  | a :: as =>
    match s.mailPA fn a write host with
    | none => .error a
    | some pa =>
      match s.mailBytes fn write host as with
      | .error e => .error e
      | .ok l => .ok (pa :: l)

/-- Read n bytes of host memory for a command; a failure completes it with status 0x06 (R388, R390). -/
def State.hostRead (s : State) (fn : Nat) (c : Command) (a n : Nat) (k : List Byte → State) : State :=
  match s.mailBytes fn false true (span a n) with
  | .error e => s.finish fn c 6 0 (BitVec.ofNat 64 e)
  | .ok l => k (l.map (byteAt s.mem))

/-- NOP (R386). -/
def execNopCommand (fn : Nat) (c : Command) (s : State) : Out := .next (s.apply fn c 0x0A true (s.finish fn c 0 0 0))

/-- MALFORMED_COMMAND (R386): an OP of no command. -/
def execMalformedCommand (fn : Nat) (c : Command) (s : State) : Out :=
  .next (if (operands c.op).isSome || !s.applies fn c then s
    else if s.recovery then s.finish fn c 9 0 0 else s.finish fn c 3 0 0)

end Sys2Proof.Machine
end

