-- ==== Sys2Proof/Machine/Firmware.lean ====
section
/-! DEFINITION. Teardown of an address space, quarantine and row sparing, margin re-plans, resets (R375-R380, R381, R409, R411). -/

namespace Sys2Proof.Machine

/-- The fault of a task whose address space is torn down (R376). -/
def tornFault : FaultInfo := ⟨0x26, 0, 0, 0, 0, 0, 0, 0, 0, 0, true, true⟩

/-- Every move, message and token of a PASID is abandoned, and its parked entries (R376). -/
def State.abandon (s : State) (pasid : BitVec 20) : State :=
  let gone := s.moves.filter fun m => m.pasid = pasid
  let sent := s.msends.filter fun m => m.pasid = pasid
  let ends := s.eoss.filter fun m => m.pasid = pasid
  let counted (c : Bool) (o : Option (Nat × Nat)) : List (Nat × Nat) := if c then o.toList else []
  let objs := gone.flatMap Move.objs ++ sent.flatMap (fun m => counted m.counted m.obj) ++ ends.flatMap fun m => counted m.counted m.obj
  let core (q : Nat × Core) : Nat × Core := (q.1, { q.2 with replay := q.2.replay.filter fun p => p.pasid ≠ pasid })
  let s := objs.foldl State.discharge s
  let t : State := { s with
    moves := s.moves.filter fun m => m.pasid ≠ pasid
    msends := s.msends.filter fun m => m.pasid ≠ pasid
    eoss := s.eoss.filter fun m => !ends.contains m
    cores := s.cores.map core }
  ((gone.map Move.ctx ++ sent.map Msend.ctx ++ ends.map EosMsg.ctx).eraseDups.foldl State.reap t).settleInvals

/-- A task that a record becomes; its produce entries are those of its extension block (R376). -/
def State.queuedTask (s : State) (q : Nat) (r : QRec) : Task :=
  { trec := r.trec, uid := r.uid, launch := r.launch, pasid := (s.launchOf r.launch).elim 0 (·.pasid), parent := r.parent
    produce := s.extProduce q r.trec, regBars := [], extra := 0, effects := [], fault := none, dead := false, prelude := none }

/-- Kill one task of a torn address space in its place (R376); one that holds a condition is pruned (R326; log 85). -/
def State.killPlace (s : State) (p : Place) : State :=
  if !p.trec.conds.isEmpty then s.pruneOne p
  else
  match p with
  | .queued q r => (s.dropRec q r.uid).killTask (s.queuedTask q r) q none []
  | .kept t k => s.killKept t k tornFault
  | .finished e => s.killOver e tornFault
  | .held c _ => (s.modCtx c fun x =>
      { x with task := x.task.map fun t => { t with fault := some tornFault } }).deliver c

/-- The PASID of a task in its place. -/
def State.placePasid (s : State) : Place → BitVec 20
  | .queued _ r => (s.launchOf r.launch).elim 0 (·.pasid)
  | .held _ t => t.pasid
  | .kept _ k => k.pasid
  | .finished e => e.task.pasid

/-- Every object of a PASID is destroyed (R350, R376). -/
def State.destroyAll (s : State) (pasid : BitVec 20) : State :=
  let mine := s.dies.flatMap fun (d : Nat × Die) => (d.2.objs.filter fun o => o.2.live && o.2.pasid = pasid).map fun o => (d.1, o.1)
  mine.foldl (fun s e => s.destroyAt e.1 e.2) s

/-- Every condition of a PASID becomes FREE (R376). -/
def State.freeConds (s : State) (pasid : BitVec 20) : State :=
  let die (d : Nat × Die) : Nat × Die := (d.1, { d.2 with conds := d.2.conds.filter fun c => c.2.pasid ≠ pasid })
  { s with dies := s.dies.map die }

/-- A teardown of a PASID on both dies (R376); a RESOLVE of it in progress is over. -/
def State.teardown (s : State) (pasid : BitVec 20) : State :=
  let s := s.abandon pasid
  let mine := s.places.filter fun p => s.placePasid p = pasid
  let s := { s with resolves := s.resolves.filter fun r => !mine.any fun p => r.uid = p.uid || r.tasks.contains p.uid }
  let s := mine.foldl State.killPlace s
  let s := (s.freeConds pasid).destroyAll pasid
  { s with launches := updWhere (fun l => l.pasid = pasid) (fun l => { l with torn := true }) s.launches, evTurn := true }

/-- Units are quarantined, those of an object once it has returned to the pool (R376, R377, R380). -/
def State.quarantineUnits (s : State) (units : List Nat) : State :=
  let used (d u : Nat) : Bool := (s.die d).objs.any fun o => o.2.base / 4096 ≤ u && u < o.2.base / 4096 + unitsOf o.2.len
  units.foldl (fun s u =>
    let d := u / halfUnits
    if 2 ≤ d then s
    else s.modDie d fun x =>
      if used d u then { x with pendQuarantine := (x.pendQuarantine ++ [u]).eraseDups } else { x with quarantine := (x.quarantine ++ [u]).eraseDups }) s

/-- ADDRESS_SPACE_TEARDOWN (R375, R376). -/
def execAddressSpaceTeardown (pasids : List (BitVec 20)) (units : List Nat) (s : State) : Out :=
  .next ((pasids.foldl State.teardown s).quarantineUnits units)

/-- No context of a die holds a task, none of its moves, messages or tokens is in flight, and no TLDF of another device waits at one of its
objects (R411). -/
def State.dieIdle (s : State) (d : Nat) : Bool :=
  !(s.ctxs.any fun x => dieOf x.1 = d && x.2.task.isSome) && !(s.moves.any fun m => dieOf m.ctx = d) &&
    !(s.msends.any fun m => dieOf m.ctx = d) && !(s.eoss.any fun m => dieOf m.ctx = d) && !(s.requests.any fun h => h.die = d)

/-- MARGIN_REPLAN (R411). -/
def execMarginReplan (d : Nat) (s : State) : Out :=
  .next (if d < 2 && s.dieIdle d then s.modDie d fun x => { x with replan := true } else s)

/-- REPLAN_COMPLETION (R364, R411). -/
def execReplanCompletion (d : Nat) (guardBand : BitVec 8) (s : State) : Out :=
  .next (if (s.die d).replan then
      { s.modDie d (fun x => { x with replan := false, epoch := x.epoch + 1, guardBand := guardBand }) with evTurn := true }
    else s)

/-- The next spare of a row's bank that is not bad and not in use, if there is one (R380). -/
def State.spareFor (s : State) (d row : Nat) : Option Nat :=
  let bank := Config.rowBank d row
  let used := ((s.die d).spared ++ (s.die d).rows).map fun r => (Config.rowBank d r.1, r.2)
  (List.range (Config.spareRows d bank)).find? fun k => !((s.die d).badSpares ++ used).contains (bank, k)

/-- The copy of a row starts on the next spare; when none remains its units are quarantined (R380). -/
def State.spareRow (s : State) (d row : Nat) : State :=
  match s.spareFor d row with
  | some k => s.modDie d fun x => { x with rows := x.rows ++ [(row, k)] }
  | none => s.quarantineUnits (Config.rowUnits d row)

/-- ROW_SPARING (R380): a copy starts, or an error in its spare ends it and starts it on the next. -/
def execRowSparing (d row : Nat) (spareError : Bool) (s : State) : Out :=
  .next (match (s.die d).rows.find? fun r => r.1 = row with
    | none => if spareError || 2 ≤ d then s else s.spareRow d row
    | some r =>
      if spareError then
        (s.modDie d fun x => { x with rows := x.rows.filter fun o => o ≠ r, badSpares := x.badSpares ++ [(Config.rowBank d row, r.2)] }).spareRow d row
      else s)

/-- ROW_COPY_COMPLETION (R380): the row is remapped. -/
def execRowCopyCompletion (d row : Nat) (s : State) : Out :=
  .next (match (s.die d).rows.find? fun r => r.1 = row with
    | none => s
    | some r => s.modDie d fun x => { x with rows := x.rows.filter fun o => o ≠ r, spared := x.spared ++ [r] })

/-- QUARANTINE_SCRUB (R377): a unit is written with zeros and, when it reads back clean, returns to the pool. -/
def execQuarantineScrub (d unit : Nat) (clean : Bool) (s : State) : Out :=
  .next (if (s.die d).quarantine.contains unit then
      let s := { s with mem := writeBytes s.mem (hbmPA (4096 * unit)) (List.replicate 4096 0), evTurn := true }
      if clean then (s.modDie d fun x => { x with quarantine := x.quarantine.filter (· ≠ unit) }).settleReclaim d else s
    else s)

/-- A firmware image verifies: its signature, and its version against the configuration block's minimum (R409). -/
def State.verifies (s : State) (image : List Byte) : Bool :=
  Config.signatureValid image && Config.minVersion s.config ≤ Config.imageVersion image

/-- RESET (R409): the boot ROM verifies the image and the configuration block in flash; every part of the device takes its reset state. Memory and the tags keep
what they hold (log 3). -/
def execReset (s : State) : Out :=
  let ok := s.verifies s.flash && Config.signatureValid s.config
  .next { State.reset with
    mem := s.mem
    tags := s.tags
    flash := s.flash
    config := s.config
    running := if ok then s.flash else []
    recovery := !ok
    out := s.out
    nextId := s.nextId
    free := s.free
    sched := s.sched }

/-- FUNCTION_LEVEL_RESET (R381; log 14): the address spaces of the function are torn down, its mailbox registers take their reset
values, and its launches end without a record; it keeps what PF0 assigned to it. -/
def execFunctionLevelReset (fn : Nat) (s : State) : Out :=
  .next (if functions ≤ fn then s
    else
      let s := (s.fn fn).pasids.foldl State.teardown s
      let s := { s with launches := updWhere (fun l => l.fn = fn) (fun l => { l with mute := true }) s.launches, evTurn := true }
      s.modFn fn fun f => { FnRegs.start with pasids := f.pasids })

end Sys2Proof.Machine
end

