-- ==== Sys2Proof/Machine/Shake.lean ====
section
/-! DEFINITION. SHAKE-256 (R410), as FIPS 202 defines it; the spec names the function and does not spell it out (PRESUMED, log 56). -/

namespace Sys2Proof.Machine

/-- The state of the Keccak permutation: lane (x, y) is number x + 5 y. -/
abbrev Lanes := List (BitVec 64)

/-- Lane (x, y), both counted modulo 5. -/
def Lanes.at (a : Lanes) (x y : Nat) : BitVec 64 := a.getD (x % 5 + 5 * (y % 5)) 0

/-- The lanes that a function of x and y gives. -/
def lanesOf5 (f : Nat → Nat → BitVec 64) : Lanes := (List.range 25).map fun i => f (i % 5) (i / 5)

/-- The rotation of lane x + 5 y. -/
def keccakRot : List Nat :=
  [0, 1, 62, 28, 27, 36, 44, 6, 55, 20, 3, 10, 43, 25, 39, 41, 45, 15, 21, 8, 18, 2, 61, 56, 14]

/-- The constants of the 24 rounds. -/
def keccakConst : List (BitVec 64) :=
  [0x0000000000000001, 0x0000000000008082, 0x800000000000808A, 0x8000000080008000, 0x000000000000808B, 0x0000000080000001,
   0x8000000080008081, 0x8000000000008009, 0x000000000000008A, 0x0000000000000088, 0x0000000080008009, 0x000000008000000A] ++
  [0x000000008000808B, 0x800000000000008B, 0x8000000000008089, 0x8000000000008003, 0x8000000000008002, 0x8000000000000080,
   0x000000000000800A, 0x800000008000000A, 0x8000000080008081, 0x8000000000008080, 0x0000000080000001, 0x8000000080008008]

/-- The steps of a round: theta, rho with pi, chi, iota. -/
def keccakTheta (a : Lanes) : Lanes :=
  let c : Lanes := (List.range 5).map fun x => a.at x 0 ^^^ a.at x 1 ^^^ a.at x 2 ^^^ a.at x 3 ^^^ a.at x 4
  let d : Lanes := (List.range 5).map fun x => c.at (x + 4) 0 ^^^ (c.at (x + 1) 0).rotateLeft 1
  lanesOf5 fun x y => a.at x y ^^^ d.at x 0
def keccakRhoPi (a : Lanes) : Lanes :=
  lanesOf5 fun x y => (a.at (x + 3 * y) x).rotateLeft (keccakRot.getD ((x + 3 * y) % 5 + 5 * x) 0)
def keccakChi (a : Lanes) : Lanes := lanesOf5 fun x y => a.at x y ^^^ (~~~(a.at (x + 1) y) &&& a.at (x + 2) y)
def keccakIota (k : BitVec 64) : Lanes → Lanes
  | [] => []
  | l :: ls => (l ^^^ k) :: ls

/-- The permutation. -/
def keccak (a : Lanes) : Lanes := keccakConst.foldl (fun a k => keccakIota k (keccakChi (keccakRhoPi (keccakTheta a)))) a

/-- Bytes of a block that SHAKE-256 absorbs. -/
def shakeRate : Nat := 136

/-- What follows a message of n bytes, up to a whole block. -/
def shakePad (n : Nat) : List Byte :=
  match shakeRate - n % shakeRate with
  | 0 => []
  | 1 => [0x9F]
  | k + 2 => [0x1F] ++ List.replicate k 0 ++ [0x80]

/-- A block is absorbed. -/
def shakeAbsorb (a : Lanes) (block : List Byte) : Lanes :=
  keccak (List.zipWith (· ^^^ ·) a (((chunks 8 17 block).map fun w => BitVec.ofNat 64 (leNat w)) ++ List.replicate 8 0))

/-- The first 64 bytes of SHAKE-256 of a message (R410). -/
def shake256 (m : List Byte) : List Byte :=
  let p := m ++ shakePad m.length
  (((chunks shakeRate p.length p).foldl shakeAbsorb (List.replicate 25 0)).take 8).flatMap fun l => leBytes 8 l.toNat

end Sys2Proof.Machine
end

