-- ==== Sys2Proof/Machine/Commands.lean ====
section
/-! DEFINITION. The mailbox commands but LAUNCH (R386-R388, R396, R401, R403, R405, R406, R408-R410). -/

namespace Sys2Proof.Machine

/-- The flag word of a copy: an 8-aligned window 0xB address, or a window 0xA or 0x9 address of die 0, cluster 0 (R388). -/
def flagPA (a : Word) : Option Nat :=
  if wfld a 0 3 = 0 && 9 ≤ wfld a 60 4 then
    match storeWin 0 a 8 with
    | .ok pa => some pa
    | .error _ => none
  else none

/-- The device address and the host address of a copy: COPYIN goes from the host (R386). -/
def copyDevice (c : Command) : Word := if c.op = 1 then c.w2 else c.w1
def copyHost (c : Command) : Word := if c.op = 1 then c.w1 else c.w2

/-- The operand ranges of a copy (R386, R388). -/
def copyRanges (c : Command) : Bool :=
  let d := copyDevice c
  let n := c.w3.toNat
  n ≤ 2 ^ 32 && (wfld d 60 4 = 0 || wfld d 60 4 = 11) &&
    (if wfld d 60 4 = 0 then wfld d 57 3 = 0 && d.toNat + n ≤ 2 ^ 57 else match storeWin 0 d n with | .ok _ => true | .error _ => false) &&
    (c.w4 = 0 || (flagPA c.w4).isSome) && (c.w4 ≠ 0 || (!c.acq && !c.rel))

/-- What the role check of a copy finds at a byte of its device end: it may pass, waits for a RECAST, or is a violation; ownership
is not checked (R194, R199, R388). -/
inductive CopyCheck where
  | pass | closed | violation
  deriving DecidableEq, Repr

/-- The role check of one byte of a copy's device end. -/
def State.copyCheck (s : State) (write : Bool) (pa : Nat) : CopyCheck :=
  if !inHbm pa then .pass
  else
    match s.findObj pa with
    | none => .violation
    | some (_, _, o) =>
      let off := pa - hbmPA o.base
      match o.segAt off with
      | none => .violation
      | some g =>
        let ok := match g.role with
          | .own => true
          | .fixed => !write
          | _ => false
        if o.isClosed off 1 then .closed else if ok then .pass else .violation

/-- The physical number of each byte of a copy's device end; none where its translation failed. -/
def State.copyDev (s : State) (fn : Nat) (c : Command) : List (Option Nat) :=
  let d := copyDevice c
  if wfld d 60 4 = 0 then (span d.toNat c.w3.toNat).map fun a => s.mailPA fn a (c.op = 1) false
  else match storeWin 0 d c.w3.toNat with
    | .ok pa => (span pa c.w3.toNat).map some
    | .error _ => []

/-- The bytes that a copy can move before its first error: host and device numbers (R388). -/
def copyPrefix : List (Option Nat × Option Nat) → List (Nat × Nat)
  | (some h, some d) :: l => (h, d) :: copyPrefix l
  | _ => []

/-- STFL's write of a flag word (R280, R388): a BROKEN word stays; a POISON word is a data error. -/
def State.writeFlag (s : State) (fn : Nat) (c : Command) : State :=
  match (if c.rel then flagPA c.w4 else none) with
  | none => s.finish fn c 0 0 0
  | some pa =>
    if tagAt s.tags pa = tagPoison then s.finish fn c 7 0 c.w4
    else if tagAt s.tags pa = tagBroken then s.finish fn c 0 0 0
    else (s.putFull pa c.w5).finish fn c 0 0 0

/-- Where the data error that the schedule has set for a function's copy lies among n bytes: a free one of them (R378, R388). -/
def State.copyStruck (s : State) (fn n : Nat) : Option Nat :=
  if n = 0 || !s.strikes.contains (Strike.copy fn) then none else some ((Config.freeBits 64 s.free).toNat % n)

/-- Move the bytes of a copy in address order up to the first error (R388); the pages of window 0x0 that it writes are logged as dirty
(R402; log 46). -/
def State.copyBytes (s : State) (fn : Nat) (c : Command) : State :=
  let toDev := c.op = 1
  let host := (span (copyHost c).toNat c.w3.toNat).map fun a => s.mailPA fn a (!toDev) true
  let dev := s.copyDev fn c
  let good := copyPrefix (host.zip dev)
  let poison := if toDev then none else good.findIdx? fun e => s.poisoned [e.2]
  let hit := s.copyStruck fn good.length
  let bad : Option Nat := match poison, hit with
    | some a, some b => some (min a b)
    | some a, none => some a
    | none, b => b
  let run := match bad with
    | some i => good.take i
    | none => good
  let n := run.length
  let bytes := run.map fun e => if toDev then (e.2, byteAt s.mem e.1) else (e.1, byteAt s.mem e.2)
  let s := { s with mem := writeAll s.mem bytes, free := s.free + 1, strikes := s.strikes.filter fun k => k ≠ Strike.copy fn }.overwrite 0 0 (bytes.map Prod.fst)
  let pages := if toDev && wfld (copyDevice c) 60 4 = 0 then pagesOf (copyDevice c).toNat n else []
  let s := s.logEntries (pages.map fun p => ⟨c.pasid, 0, p, 0, true, true, true⟩)
  if n = c.w3.toNat then s.writeFlag fn c
  else
    let atDev := bad.isSome || (dev.getD n none).isNone
    s.finish fn c (if bad.isSome then 7 else 6) 0 ((if atDev then copyDevice c else copyHost c) + BitVec.ofNat 64 n)

/-- A copy whose bytes have been checked: a closed range holds it (R199), else the first violation ends it (R196, R388). -/
def State.copyChecked (s : State) (fn : Nat) (c : Command) (checks : List CopyCheck) : State :=
  if checks.contains .closed then s.await fn c
  else
    match checks.findIdx? (fun k => decide (k = CopyCheck.violation)) with
    | some i => s.finish fn c 5 0 (copyDevice c + BitVec.ofNat 64 i)
    | none => s.copyBytes fn c

/-- A copy once its flag word has been acquired (R388). -/
def State.copyOn (s : State) (fn : Nat) (c : Command) : State :=
  let toDev := c.op = 1
  let d := copyDevice c
  let n := c.w3.toNat
  s.withMail fn c (spanPages (copyHost c).toNat n (!toDev) ++ (if wfld d 60 4 = 0 then spanPages d.toNat n toDev else []))
    (s.copyChecked fn c ((s.copyDev fn c).map fun p => p.elim CopyCheck.pass (s.copyCheck toDev)))

/-- What a copy finds at its flag word, waiting as LDF does (R259, R274, R275, R388): it waits on, goes on, or meets BROKEN or POISON. -/
inductive FlagState where
  | waits | full | broken | poison
  deriving DecidableEq, Repr

/-- The state of a copy's wait on a flag word: what became of the word while it waited counts before its tag. -/
def State.flagState (s : State) (fn pa : Nat) : FlagState :=
  let t := tagAt s.tags pa
  match (s.fn fn).flag.map (fun (e : Nat × Block) => e.2) with
  | some .broken => .broken
  | some .unheard => if t = tagFull then .waits else if t = tagPoison then .poison else if t = tagBroken then .broken else .waits
  | _ => if t = tagFull then .full else if t = tagPoison then .poison else if t = tagBroken then .broken else .waits

/-- A copy whose flag word is BROKEN moves nothing; with which error status it ends is not stated, and is a free one (DESIGN CHOICE, log
86). -/
def State.copyBroken (s : State) (fn : Nat) (c : Command) : State :=
  let r := s.freeBits 64
  r.2.finish fn c (BitVec.ofNat 8 (1 + r.1.toNat % 10)) 0 c.w4

/-- A copy with ACQ waits for its flag word, and goes on when the word is FULL; POISON is a data error (R388). -/
def State.copyOp (s : State) (fn : Nat) (c : Command) : State :=
  if !c.acq || (s.fn fn).acquired then s.copyOn fn c
  else
    match flagPA c.w4 with
    | none => s.finish fn c 3 0 0
    | some pa =>
      match s.flagState fn pa with
      | .full => ({ s.modFn fn fun f => { f with acquired := true, flag := none } with evTurn := true }).copyOn fn c
      | .broken => s.copyBroken fn c
      | .poison => s.finish fn c 7 0 c.w4
      | .waits => (s.await fn c).modFn fn fun f => { f with flag := some (pa, ((f.flag.map (·.2)).getD .tagged)) }

/-- COPYIN (R388). -/
def execCopyin (fn : Nat) (c : Command) (s : State) : Out := .next (s.apply fn c 1 (copyRanges c) (s.copyOp fn c))

/-- COPYOUT (R388). -/
def execCopyout (fn : Nat) (c : Command) (s : State) : Out := .next (s.apply fn c 2 (copyRanges c) (s.copyOp fn c))

/-- A function's copy waits for a flag word, and that wait is over. -/
def State.flagReady (s : State) (fn : Nat) : Option Command :=
  match (s.fn fn).waiting with
  | some c =>
    if (c.op = 1 || c.op = 2) && c.acq && !(s.fn fn).acquired && (s.fn fn).slotFree && (flagPA c.w4).any fun pa => s.flagState fn pa ≠ .waits then some c else none
  | none => none

/-- FLAG_WORD_ACQUIRE (R388). -/
def execFlagWordAcquire (fn : Nat) (s : State) : Out :=
  .next (match s.flagReady fn with
    | some c => s.copyOp fn c
    | none => s)

/-- The operand ranges of ALLOC (R386, R396). -/
def allocRanges (c : Command) : Bool :=
  c.w5.toNat ≤ 1 && (match hallocCheck c.w1 c.w2 with | .ok _ => true | .error _ => false) &&
    (c.w3 = 0 || ((descRole c.w2 = .fixed || descRole c.w2 = .own) && c.w4.toNat ≤ c.w1.toNat))

/-- ALLOC (R396): it waits for drains as HALLOC does. -/
def execAlloc (fn : Nat) (c : Command) (s : State) : Out :=
  let n := if c.w3 = 0 then 0 else c.w4.toNat
  let d := c.w5.toNat
  .next (s.apply fn c 4 (allocRanges c) (s.withMail fn c (spanPages c.w3.toNat n false) (s.hostRead fn c c.w3.toNat n fun image =>
    let r := s.allocate d c.w1.toNat c.w2 c.pasid none none
    match r.2 with
    | .drains => r.1.await fn c
    | .full => r.1.finish fn c 8 0 0
    | .made slot =>
      let o := r.1.obj d slot
      let base := o.elim 0 (·.base)
      { r.1 with mem := writeBytes r.1.mem (hbmPA base) image }.finish fn c 0 (strongHandle d slot (o.elim 0 (·.gen))) (BitVec.ofNat 64 base))))

/-- FREE (R387). -/
def execFreeCommand (fn : Nat) (c : Command) (s : State) : Out :=
  .next (s.apply fn c 5 true (match s.strongObj c.w1 with
    | .error _ => s.finish fn c 3 0 0
    | .ok o =>
      match s.foreignOwn 0 o with
      | some off => s.finish fn c 5 0 (o.addr off)
      | none => (s.destroyAt (handleDie c.w1) (handleSlot c.w1)).finish fn c 0 0 0))

/-- HARVEST (R403). -/
def execHarvestCommand (fn : Nat) (c : Command) (s : State) : Out := .next (s.apply fn c 6 true ((s.harvestPasid c.pasid).finish fn c 0 0 0))

/-- The operand ranges of DLOG (R386). -/
def dlogRanges (c : Command) : Bool := wfld c.w1 0 12 = 0 && (List.range 15).any fun i => c.w2.toNat = 2 ^ (6 + i)

/-- DLOG (R401). -/
def execDlog (fn : Nat) (c : Command) (s : State) : Out :=
  .next (s.apply fn c 7 (dlogRanges c)
    ({ s with dlogs := Sparse.put s.dlogs c.pasid.toNat ⟨fn, c.w1.toNat, c.w2.toNat⟩ }.finish fn c 0 0 0))

/-- The operand ranges of EXPORT that need no state (R406). w6 [31:4], for which the spec lists no field, must be zero in an entry that is
made valid (DESIGN CHOICE, log 89). -/
def exportRanges (c : Command) : Bool :=
  wfld c.w1 9 55 = 0 && (!c.w1.getLsbD 8 || (wfld c.w2 0 12 = 0 && wfld c.w3 0 12 = 0 && c.w2.toNat + c.w3.toNat ≤ 2 ^ 48 && wfld c.w6 4 28 = 0))

/-- An export entry from its command. -/
def exportOf (c : Command) : Export :=
  ⟨c.w2.toNat, c.w3.toNat, handleDie c.w4, handleSlot c.w4, handleGen c.w4, c.w5.toNat, c.w6.setWidth 3, c.w6.getLsbD 3, c.w6.extractLsb' 32 32⟩

/-- A valid export entry is refused: a bad handle, a range beyond the object, or an overlap (R406). -/
def State.exportBad (s : State) (c : Command) : Bool :=
  let e := exportOf c
  (match s.strongObj c.w4 with
    | .error _ => true
    | .ok o => o.pasid ≠ c.pasid || o.len < e.off + e.len) ||
    s.exports.any fun x => x.1 ≠ wfld c.w1 0 8 && x.2.start < e.start + e.len && e.start < x.2.start + x.2.len

/-- EXPORT (R406). -/
def execExportCommand (fn : Nat) (c : Command) (s : State) : Out :=
  .next (s.apply fn c 8 (exportRanges c) (
    if !c.w1.getLsbD 8 then { s with exports := Sparse.erase s.exports (wfld c.w1 0 8) }.finish fn c 0 0 0
    else if s.exportBad c then s.finish fn c 3 0 0
    else { s with exports := Sparse.put s.exports (wfld c.w1 0 8) (exportOf c) }.finish fn c 0 0 0))

/-- The operand ranges of REDWIN (R408). -/
def redwinRanges (c : Command) : Bool :=
  c.w1.toNat < 64 && c.w2.toNat < 4096 && c.w3.toNat + c.w4.toNat ≤ 2 ^ 48 && wfld c.w5 0 5 ≤ 10 && wfld c.w5 5 3 = 0 && wfld c.w5 32 32 = 0 &&
    1 ≤ wfld c.w5 16 16 && wfld c.w5 16 16 ≤ 4096 && c.w6.toNat < 65536

/-- REDWIN (R408). -/
def execRedwin (fn : Nat) (c : Command) (s : State) : Out :=
  let w : RedWin := ⟨c.w2.toNat, c.w3.toNat, c.w4.toNat, wfld c.w5 0 5, c.w5.extractLsb' 8 8, wfld c.w5 16 16, c.w6.toNat⟩
  .next (s.apply fn c 9 (redwinRanges c) ({ s with redwins := Sparse.put s.redwins c.w1.toNat w }.finish fn c 0 0 0))

/-- TEARDOWN (R376, R387). -/
def execTeardown (fn : Nat) (c : Command) (s : State) : Out := .next (s.apply fn c 0x0B true ((s.teardown c.pasid).finish fn c 0 0 0))

/-- The length of an attestation report (R410). -/
def reportLength : Nat := 30040

/-- The bytes of an attestation report that its signature covers (R410). -/
def State.reportBody (s : State) (fn : Nat) (nonce : List Byte) : List Byte :=
  let bytes (n : Nat) (f : Nat → Byte) : List Byte := (List.range n).map f
  leBytes 8 1 ++ nonce ++ shake256 s.running ++ shake256 s.config ++
    leBytes 8 (Config.imageVersion s.running) ++ leBytes 8 (s.fabId + fn * 2 ^ 16) ++ bytes 64 Config.identityKey

/-- An attestation report (R410); n names a free value that its signature may depend on. -/
def State.report (s : State) (fn : Nat) (nonce : List Byte) (n : Nat) : List Byte :=
  let body := s.reportBody fn nonce
  body ++ (List.range 29792).map (Config.signature body n)

/-- ATTEST (R410). -/
def execAttest (fn : Nat) (c : Command) (s : State) : Out :=
  .next (s.apply fn c 0x0C true (s.withMail fn c (spanPages c.w1.toNat 32 false ++ spanPages c.w2.toNat reportLength true)
    (s.hostRead fn c c.w1.toNat 32 fun nonce =>
      match s.mailBytes fn true true (span c.w2.toNat reportLength) with
      | .error e => s.finish fn c 6 0 (BitVec.ofNat 64 e)
      | .ok l => { s with mem := writeAll s.mem (l.zip (s.report fn nonce s.free)), free := s.free + 1 }.finish fn c 0 (BitVec.ofNat 64 reportLength) 0)))

/-- The operand ranges of ASSIGN (R386). -/
def assignRanges (c : Command) : Bool :=
  c.w1.toNat < functions && c.w2.toNat < 2 ^ 16 && wfld c.w3 20 12 = 0 && wfld c.w3 34 30 = 0 && !(c.w3.getLsbD 32 && c.w3.getLsbD 33)

/-- A task of another function than f holds a context or a record on a cluster (R387). -/
def State.clusterHeld (s : State) (f g : Nat) : Bool :=
  s.places.any fun p => clusterOfCore p.core = g && s.launchFn (match p with
    | .queued _ r => r.launch
    | .held _ t => t.launch
    | .kept _ k => k.launch
    | .finished e => e.task.launch) ≠ f

/-- ASSIGN (R383, R387). -/
def execAssign (fn : Nat) (c : Command) (s : State) : Out :=
  let f := c.w1.toNat
  let moved := (List.range 16).filter fun g => c.w2.getLsbD g && s.clusterFnOf g ≠ f
  let pasid : BitVec 20 := c.w3.setWidth 20
  let add := c.w3.getLsbD 32 && !(s.fn f).pasids.contains pasid
  .next (s.apply fn c 0x10 (assignRanges c && !(add && 64 ≤ (s.fn f).pasids.length)) (
    if moved.any fun g => s.clusterHeld f g then s.finish fn c 0x0A 0 0
    else
      let s := { s with clusterFn := moved.foldl (fun m g => Sparse.set 0 m g f) s.clusterFn }
      let s := if add then s.modFn f fun r => { r with pasids := r.pasids ++ [pasid] } else s
      let s := if c.w3.getLsbD 33 then s.modFn f fun r => { r with pasids := r.pasids.filter (· ≠ pasid) } else s
      s.finish fn c 0 0 0))

/-- CTXCFG (R387). -/
def execCtxcfg (fn : Nat) (c : Command) (s : State) : Out :=
  let part := (List.range 4).map fun i => (i, c.w2.extractLsb' (8 * i) 3)
  .next (s.apply fn c 0x11 (c.w1.toNat < 128 && c.w2 &&& ~~~0x07070707 = 0)
    ((s.modCore c.w1.toNat fun q => { q with part := part }).finish fn c 0 0 0))

/-- WATERMARK (R344, R387). -/
def execWatermark (fn : Nat) (c : Command) (s : State) : Out :=
  .next (s.apply fn c 0x12 (c.w1.toNat < 2 && wfld c.w2 0 12 = 0 && wfld c.w3 0 12 = 0 && c.w2.toNat ≤ c.w3.toNat)
    (((s.modDie c.w1.toNat fun d => { d with low := c.w2.toNat, high := c.w3.toNat }).settleReclaim c.w1.toNat).finish fn c 0 0 0))

/-- FABID (R405). -/
def execFabid (fn : Nat) (c : Command) (s : State) : Out :=
  .next (s.apply fn c 0x13 (c.w1.toNat < 4096) ({ s with fabId := c.w1.toNat }.finish fn c 0 0 0))

/-- FKEY (R405). -/
def execFkey (fn : Nat) (c : Command) (s : State) : Out :=
  .next (s.apply fn c 0x14 (c.w1.toNat < 2 ^ 32)
    ({ s with fkeys := Sparse.put s.fkeys c.pasid.toNat (c.w1.setWidth 32) }.finish fn c 0 0 0))

/-- FWLOAD (R409): a verified image goes to flash, for the next reset. -/
def execFwload (fn : Nat) (c : Command) (s : State) : Out :=
  .next (s.apply fn c 0x15 true (s.withMail fn c (spanPages c.w1.toNat c.w2.toNat false) (s.hostRead fn c c.w1.toNat c.w2.toNat fun image =>
    if s.verifies image then { s with flash := image }.finish fn c 0 0 0 else s.finish fn c 9 0 0)))

end Sys2Proof.Machine
end

