-- ==== Sys2Proof/Machine/Fabric.lean ====
section
/-! DEFINITION. What arrives from outside at the device's memory: accesses through the Caravan fabric, merged updates, host
accesses to the HBM aperture (R196, R382, R405-R408). -/

namespace Sys2Proof.Machine

/-- The id that a task of another device has here: no task of this device has it. -/
def remoteUid (source producer : Nat) : Nat := 2 ^ 64 * (source + 1) + producer

/-- The object end of a request of n bytes (R407): a violation is answered with cause 4, a range that a RECAST has closed holds the
request, a broken object takes part in nothing (R199, R274). -/
def State.atExport (s : State) (req : FabricReq) (perm : Nat) (u : Use) (uid n : Nat) (k : Nat → Nat → Nat → Obj → State) : State :=
  match s.atEntry req.key perm u uid req.offset n with
  | .bad => s.reply req 4 []
  | .held => s
  | .at d slot a broken _ =>
    match s.obj d slot with
    | none => s.reply req 4 []
    | some o => if broken then s.reply req 0 [] else k d slot a o

/-- A Fold word that a request updates: its physical number, its operation and scale, whether its object is broken (R407). -/
structure FoldAt where
  pa     : Nat
  op     : Nat
  scale  : BitVec 8
  broken : Bool
  deriving DecidableEq, Repr

/-- The object bytes of the runs of a request, as physical numbers, each with whether its object is broken: an error when one is a
violation or meets a closed range (R196, R199, R274). -/
def State.homeRuns (s : State) (key : BitVec 32) (perm : Nat) (u : Use) : List (Nat × Nat) → Except AtHome (List (Nat × Bool))
  | [] => .ok []
  | (off, n) :: l =>
    match s.atEntry key perm u 0 off n with
    | .at d slot a broken _ =>
      match s.homeRuns key perm u l with
      | .ok k => .ok ((hbmPA ((s.obj d slot).elim 0 (·.base) + a), broken) :: k)
      | .error e => .error e
    | e => .error e

/-- A request of runs: every run is checked before any acts (R196); a broken object takes part in nothing (R274). -/
def State.atRuns (s : State) (req : FabricReq) (perm : Nat) (u : Use) (runs : List (Nat × Nat)) (k : List Nat → State) : State :=
  match s.homeRuns req.key perm u runs with
  | .error .held => s
  | .error _ => s.reply req 4 []
  | .ok l => if l.any (·.2) then s.reply req 0 [] else k (l.map (·.1))

/-- The Fold words of inputs of a size: an error when one is a violation, as an input that does not match its word's operation is (R206),
or meets a closed range (R196, R199). -/
def State.foldHomes (s : State) (key : BitVec 32) (size : Nat) : List (Nat × Word) → Except AtHome (List (FoldAt × Word))
  | [] => .ok []
  | (off, x) :: xs =>
    match s.atFold key 0 off size with
    | .at d slot a broken f =>
      match s.foldHomes key size xs with
      | .ok l => .ok ((⟨hbmPA ((s.obj d slot).elim 0 (·.base) + a), f.1, f.2, broken⟩, x) :: l)
      | .error e => .error e
    | e => .error e

/-- Apply inputs at their words; the flags come back (R192). -/
def State.applyFolds (s : State) (l : List (FoldAt × Word)) : State × Word :=
  l.foldl (fun r e =>
    let t := r.1.foldAt e.1.pa e.1.op e.1.scale e.2
    (t.1, r.2 ||| t.2)) (s, 0)

/-- Fold inputs that arrive (R407, R408): all are applied, or none. A merged update states its operation, which must be that of every word,
and its fx64add inputs are converted already. -/
def State.fabricFold (s : State) (req : FabricReq) (merged : Option Nat) (size : Nat) (inputs : List (Nat × Word)) : State :=
  match s.foldHomes req.key size inputs with
  | .error .held => s
  | .error _ => s.reply req 4 []
  | .ok l =>
    if l.any fun e => merged.any fun op => op ≠ e.1.op then s.reply req 4 []
    else if l.any fun e => e.1.broken then s.reply req 0 (leBytes 8 flagBRK.toNat)
    else
      let r := s.applyFolds (l.map fun e => if merged.isSome && e.1.op = 10 then ({ e.1 with op := 1 }, e.2) else e)
      r.1.reply req 0 (leBytes 8 r.2.toNat)

/-- A TSTF of another device's task (R205, R407). A dropped one counts the stream's elements, as its request does not state its own (R271;
DESIGN CHOICE, log 101). -/
def State.fabricFlowWrite (s : State) (req : FabricReq) (uid : Nat) (bytes : List Byte) : State :=
  let n := bytes.length
  s.atExport req 1 .flowWrite uid n fun d slot a o =>
    match o.stream with
    | none => s.reply req 4 []
    | some t =>
      if n % o.flowSize ≠ 0 || a % o.flowSize ≠ 0 || (t.append && a ≠ o.flowStart) then s.reply req 4 []
      else
        match o.reserve t uid a n with
        | .refused _ => s.reply req 4 []
        | .dropped => (s.modStream d slot fun t => { t with d := t.d + n / o.flowSize }).reply req 0 []
        | .at off =>
          let m := writeBytes s.mem (hbmPA (o.base + off)) bytes
          ({ s with mem := m }.modStream d slot fun t => (t.take uid off n).publish off n).reply req 0 []

/-- A TLDF of another device's task (R204, R272, R407): it claims its elements, and waits until they are published. -/
def State.fabricFlowRead (s : State) (req : FabricReq) (n : Nat) : State :=
  s.atExport req 0 .flowRead 0 n fun d slot a o =>
    match o.stream with
    | none => s.reply req 4 []
    | some t =>
      if n % o.flowSize ≠ 0 || a ≠ t.c then s.reply req 4 []
      else
        let s := s.modStream d slot fun t => t.claim a n
        { s with requests := s.requests ++ [⟨req, d, slot, o.gen, a, n⟩], evTurn := true }

/-- A token of another device's task (R269, R271, R407). -/
def State.fabricToken (s : State) (req : FabricReq) (uid : Nat) : State :=
  s.atExport req 1 .flowWrite uid 1 fun d slot _ o =>
    match o.stream with
    | none => s.reply req 4 []
    | some t =>
      if t.canBind uid then
        let r := (s.modStream d slot fun t => t.bind uid).tokenAt d slot uid
        r.1.reply req 0 []
      else s.reply req 4 []

/-- FABRIC_ACCESS (R407). -/
def execFabricAccess (req : FabricReq) (s : State) : Out :=
  .next (match req.op with
    | .read l => s.atRuns req 0 .read l fun as => s.reply req 0 ((as.zip l).flatMap fun (e : Nat × Nat × Nat) => readBytes s.mem e.1 e.2.2)
    | .write l => s.atRuns req 1 .write (l.map fun r => (r.1, r.2.length)) fun as =>
        { s with mem := (as.zip l).foldl (fun m (e : Nat × Nat × List Byte) => writeBytes m e.1 e.2.2) s.mem }.reply req 0 []
    | .fold n l => s.fabricFold req none n l
    | .reduce _ _ _ _ _ => s.reply req 4 []
    | .flowWrite p bs => s.fabricFlowWrite req (remoteUid req.source p) bs
    | .flowRead n => s.fabricFlowRead req n
    | .endOfStream p => s.fabricToken req (remoteUid req.source p))

/-- The export entry of an offset takes merged updates (R406, R408). -/
def State.reduces (s : State) (off : Nat) : Bool :=
  (s.exports.find? fun e => e.2.start ≤ off && off < e.2.start + e.2.len).any fun e => e.2.reduce

/-- MERGED_UPDATE (R408): one Fold update per element, each in an entry that takes merged updates; a mismatch is answered with cause 4 and
changes nothing. -/
def execMergedUpdate (req : FabricReq) (s : State) : Out :=
  .next (match req.op with
    | .reduce op _ _ _ l =>
      let inputs := l.mapIdx fun i x => (req.offset + foldWord op * i, x)
      if inputs.all fun e => s.reduces e.1 then s.fabricFold req (some op) (foldInput op) inputs else s.reply req 4 []
    | _ => s.reply req 4 [])

/-- BAR4_ACCESS (R382): a read or a write completes with Unsupported Request. -/
def execBar4Access (_ : Bool) (offset : Nat) (s : State) : Out := .next { s with out := s.out ++ [.unsupported offset] }

end Sys2Proof.Machine
end

