-- ==== Sys2Proof/Machine/Transpose.lean ====
section
/-! DEFINITION. The transpose unit (R184-R186). -/

namespace Sys2Proof.Machine

/-- Empty the buffer and its counts. -/
def TUnit.cleared (u : TUnit) : TUnit := { u with buf := [], rc := 0, cc := 0 }

/-- One effect of R186 lands. -/
def TUnit.apply (u : TUnit) : TEffect → TUnit
  | .row v =>
    let u := if u.rc = u.rows then u.cleared else u
    { u with buf := Sparse.put u.buf u.rc v, rc := u.rc + 1 }
  | .config rows size => { u.cleared with rows := rows, size := size }
  | .clear => u.cleared

/-- The unit after every landing at entries below c, in order of landing. -/
def TUnit.land (u : TUnit) (c : Nat) : TUnit :=
  let due := sortBy (·.1) (u.pend.filter fun e => e.1 < c)
  { due.foldl (fun u e => u.apply e.2) u with pend := u.pend.filter fun e => c ≤ e.1 }

/-- Bits of an element and elements in a row (R184). -/
def TUnit.bits (u : TUnit) : Nat := 32 / 2 ^ u.size.toNat
def TUnit.width (u : TUnit) : Nat := 64 * 2 ^ u.size.toNat

/-- The next column, from byte 0, other bytes 0 (R186). -/
def TUnit.column (u : TUnit) : VReg :=
  BitVec.ofNat 2048 ((List.range u.rows).foldl
    (fun n r => n + fld (Sparse.get (0 : VReg) u.buf r).toNat (u.bits * u.cc) u.bits * 2 ^ (u.bits * r)) 0)

/-- An effect of the T slot that lands after lat entries. -/
def State.tEffect (s : State) (lat : Nat) (e : TEffect) : State :=
  s.modCx fun x => { x with tu := { x.tu with pend := x.tu.pend ++ [(s.cur.entry + lat, e)] } }

/-- TRIN (R186): the row lands at e + 6. -/
def execTrin (g : BitVec 4) (v : BitVec 5) (s : State) : Out :=
  .next (s.guardUnit g fun s => s.readV v fun x s => (s.tEffect 6 (.row x)).retire)

/-- TRPOP (R186): the column stands as every landing below e left it; the result lands at exactly e + 6. -/
def execTrpop (g : BitVec 4) (v : BitVec 5) (s : State) : Out :=
  .next (s.guardUnit g fun s => s.unlent v fun s =>
    let u := s.cx.tu.land s.cur.entry
    let s := s.modCx fun x => { x with tu := { u with cc := (u.cc + 1) % u.width } }
    (s.writeV v 6 true (BitVec.allOnes 2048) u.column).retire)

/-- TRCFG (R186): lands at e + 1. -/
def execTrcfg (g : BitVec 4) (r : BitVec 6) (sz : BitVec 2) (s : State) : Out :=
  .next (s.guardUnit g fun s => (s.tEffect 1 (.config (r.toNat + 1) sz)).retire)

/-- TRCLR (R186): lands at e + 1. -/
def execTrclr (g : BitVec 4) (s : State) : Out := .next (s.guardUnit g fun s => (s.tEffect 1 .clear).retire)

end Sys2Proof.Machine
end

