-- ==== Sys2Proof/Machine/Landing.lean ====
section
/-! DEFINITION. The landing of results and scratchpad writes (R39-R45, R186). -/

namespace Sys2Proof.Machine

/-- Some register of a file has a write due. -/
def anyDue {w : Nat} (e : Slot → Nat) (m : Sparse (Cell w)) : Bool := m.any fun r => r.2.due e

/-- Some write of a context is due; the transpose unit's wait while a handler runs (R356). -/
def Ctx.landingDue (x : Ctx) : Bool :=
  let e := x.reach
  anyDue e x.s || anyDue e x.p || anyDue e x.v || anyDue e x.shapeA || anyDue e x.shapeS || anyDue e x.csr ||
    x.scaleA.due e || x.scaleB.due e || (x.stores.any fun r => !r.landed && r.land < e r.slot) ||
    (!x.supervisor && x.tu.pend.any fun p => p.1 < e .t)

/-- The registers of a context with every due write landed, and the next entry of the free stream (R44). -/
def Ctx.landRegs (x : Ctx) (f : Nat) : Ctx × Nat :=
  let e := x.reach
  let l := x.low
  let y := x.syncs
  let s := mapRegs (Cell.land y e l) x.s f
  let p := mapRegs (Cell.land y e l) x.p s.2
  let v := mapRegs (Cell.land y e l) x.v p.2
  let a := mapRegs (Cell.land y e l) x.shapeA v.2
  let h := mapRegs (Cell.land y e l) x.shapeS a.2
  let c := mapRegs (Cell.land y e l) x.csr h.2
  let sa := x.scaleA.land y e l c.2
  let sb := x.scaleB.land y e l sa.2
  ({ x with
      s := s.1
      p := p.1
      v := v.1
      shapeA := a.1
      shapeS := h.1
      csr := c.1
      scaleA := sa.1
      scaleB := sb.1
      tu := if x.supervisor then x.tu else x.tu.land (e .t) }, sb.2)

/-- Every result and scratchpad write of a context that is due lands; landed writes that every slot sees are settled (R39). -/
def State.landAll (s : State) (c : Nat) : State :=
  let r := (s.ctx c).landRegs s.free
  let s := { s with free := r.2 }.setCtx c r.1
  let s := s.landStores c fun k => k.land < r.1.reach k.slot
  s.modCtx c fun x => { x with stores := x.stores.filter fun k => !k.known x.syncs x.low }

/-- What is due in a context has landed (R39). -/
def State.landed (s : State) (c : Nat) : State := if (s.ctx c).landingDue then s.landAll c else s

/-- LANDING (R39). -/
def execLanding (c : Nat) (s : State) : Out := .next (s.landAll c)

end Sys2Proof.Machine
end

