-- ==== Sys2Proof/Machine/Launch.lean ====
section
/-! DEFINITION. LAUNCH and the completion of launches (R306, R326, R389-R395). -/

namespace Sys2Proof.Machine

/-- The 8-byte word of a list of bytes at an offset. -/
def wordAt (b : List Byte) (off : Nat) : Word := BitVec.ofNat 64 (leNat ((b.drop off).take 8))

/-- The header of a launch descriptor is legal (R392). -/
def headerOk (b : List Byte) : Bool :=
  let w := wordAt b 0
  wfld w 34 30 = 0 && wfld w 27 5 = 0 && 1 ≤ wfld w 0 16 && wfld w 0 16 ≤ 1024 && wfld (wordAt b 8) 57 7 = 0 && wfld (wordAt b 8) 0 2 = 0 &&
    wfld (wordAt b 16) 57 7 = 0 && wfld (wordAt b 16) 0 23 = 0 && (b.drop 24).all (· = 0)

/-- A root of a descriptor (R392): its record, words 5 and 7 as given, its image's address and length, and the rest of its bytes. -/
structure Root where
  trec : TaskRec
  w5   : Word
  w7   : Word
  img  : Word
  len  : Nat
  rest : List Byte
  deriving DecidableEq, Repr

/-- Root r of a descriptor. -/
def rootAt (b : List Byte) (r : Nat) : Root :=
  let x := (b.drop (64 + 128 * r)).take 128
  { trec := recOf fun i => wordAt x (8 * i)
    w5 := wordAt x 40
    w7 := wordAt x 56
    img := wordAt x 64
    len := leNat ((x.drop 72).take 4)
    rest := x.drop 76 }

/-- The checks of a root (R292, R383, R393). -/
def State.rootOk (s : State) (fn : Nat) (r : Root) : Bool :=
  recValid r.trec.coreNum r.trec r.w5 r.w7 true && s.clusterFnOf (clusterOfCore r.trec.coreNum) = fn && r.rest.all (· = 0) &&
    (r.img = 0 || (wfld r.img 57 7 = 0 && r.len ≤ 64 * (r.trec.len0 + r.trec.len1)))

/-- The accesses that a root's image needs. -/
def Root.pages (r : Root) : List (Nat × Bool) := if r.img = 0 then [] else spanPages r.img.toNat r.len false

/-- The images of the roots, or the first address that failed (R393). -/
def State.images (s : State) (fn : Nat) : List Root → Except Nat (List (Root × List Byte))
  | [] => .ok []
  | r :: rs =>
    match s.mailBytes fn false false (if r.img = 0 then [] else span r.img.toNat r.len) with
    | .error e => .error e
    | .ok l =>
      match s.images fn rs with
      | .error e => .error e
      | .ok ls => .ok ((r, l.map (byteAt s.mem)) :: ls)

/-- The lowest launch join word of a die that no launch holds (R393). -/
def State.freeWord (s : State) (d : Nat) : Option Nat :=
  let held := s.launches.flatMap Launch.words
  ((List.range 8192).map fun i => diePA d (0x01FF0000 + 8 * i)).find? fun a => !held.contains a

/-- The dies that hold roots, with how many. -/
def rootDies (l : List Root) : List (Nat × Nat) :=
  ([0, 1].map fun d => (d, l.countP fun r => r.trec.die = d)).filter fun e => e.2 ≠ 0

/-- The join words that a launch takes; none while a die has no free one (R393). -/
def State.takeWords (s : State) (l : List (Nat × Nat)) : Option (List (Nat × Nat)) :=
  l.foldr (fun e r => (s.freeWord e.1).bind fun a => r.map fun r => (a, e.2) :: r) (some [])

/-- A launch begins: its join words hold the numbers of roots and are FULL (R393). -/
def State.openLaunch (s : State) (fn : Nat) (c : Command) (b : List Byte) (words : List (Nat × Nat)) : State :=
  let w := wordAt b 0
  let l : Launch :=
    { id := s.nextId, fn := fn, pasid := c.pasid, user := c.user, index := (s.fn fn).head, tvec := wordAt b 8, trecBase := wordAt b 16
      irq := w.getLsbD 33, vec := wfld w 16 11, words := words.map Prod.fst, kills := [], torn := false, op := c.op, pages := [], mute := false }
  let s := words.foldl (fun s e => s.putWord 0 e.1 e.2 tagFull) s
  let id := s.nextId
  { s with launches := s.launches ++ [l], nextId := id + 1 }.modFn fn fun f => { f with placing := some (id, 0), waiting := some c }

/-- The footprint of a root on its core holds its image, zeros elsewhere, every word EMPTY (R393 step 1). -/
def State.placeImage (s : State) (q : Nat) (t : TaskRec) (image : List Byte) : State :=
  let s := (footprint t).foldl (fun s f =>
    let m := writeBytes s.mem (spadPA q f.1) (List.replicate f.2 0)
    { s with mem := m, tags := setTags s.tags (spadPA q f.1) f.2 tagEmpty }.overwrite 0 0 (span (spadPA q f.1) f.2)) s
  let n := 64 * t.len0
  let m := writeBytes s.mem (spadPA q (64 * t.foff)) (image.take n)
  { s with mem := writeBytes m (spadPA q (0x200000 + 64 * t.foff)) (image.drop n) }

/-- The launch join word of a launch on a die, as an offset of the die store. -/
def Launch.wordOf (l : Launch) (d : Nat) : Nat := ((l.words.find? fun a => diePA d 0 ≤ a && a < diePA (d + 1) 0).getD (diePA d 0)) - diePA d 0

/-- The record of a root (R306, R393 step 2). -/
def Root.completed (r : Root) (l : Launch) (pend : Bool) (seq : BitVec 48) : TaskRec :=
  let t := { r.trec with
    join := addrLoc (BitVec.ofNat 64 (10 * 2 ^ 60 + l.wordOf r.trec.die))
    pend := pend
    seq := seq
    lk := 0x8000
    conds := []
    depth := 0 }
  if t.pin then t
  else if r.img = 0 then { t with die := 0, cluster := 0, core := 0 }
  else { t with pin := true }

/-- An Own segment without owner, or whose owner was a root that has ended, passes to the first root that names the object's strong handle
(R25, R193, R297, R393; log 80). -/
def State.claimOwn (s : State) (uid : Nat) (pasid : BitVec 20) (h : Word) : State :=
  match s.strongObj h with
  | .error _ => s
  | .ok o =>
    if o.pasid ≠ pasid then s
    else
      let take (g : Seg) : Seg := if g.role = .own && g.owner.all (fun u => (s.taskInfo u).ended) then { g with owner := some uid, retOwner := none } else g
      s.modObj (handleDie h) (handleSlot h) fun o => { o with segs := o.segs.map take }

/-- Place one root (R393). -/
def State.placeRoot (s : State) (l : Launch) (pend : Bool) (r : Root) (image : List Byte) : State :=
  let q := r.trec.coreNum
  let s := if r.img = 0 then s else s.placeImage q r.trec image
  let n := s.nextSeq (dieOfCore q)
  let t := r.completed l pend n.1
  let s := n.2
  let uid := s.nextId
  let s := { s with nextId := uid + 1, tasks := Sparse.put s.tasks uid ⟨none, false, l.id⟩ }
  ((s.claimOwn uid l.pasid t.arg1).claimOwn uid l.pasid t.arg2).pushRec q ⟨t, uid, l.id, none, false⟩

/-- Place the roots that are left, in order, while their deques have room (R393 step 3). -/
def State.placeRoots (fn : Nat) (c : Command) (l : Launch) (pend : Bool) : List (Root × List Byte) → Nat → State → State
  | [], _, s => s.popCommand fn
  | r :: rs, i, s =>
    if dequeRoom ≤ (s.core r.1.trec.coreNum).deque.length then
      (s.modFn fn fun f => { f with placing := some (l.id, i) }).await fn c
    else State.placeRoots fn c l pend rs (i + 1) (s.placeRoot l pend r.1 r.2)

/-- The roots of a checked descriptor are placed, from the next one on (R393). -/
def State.launchRoots (s : State) (fn : Nat) (c : Command) (b : List Byte) (roots : List (Root × List Byte)) : State :=
  let go (s : State) : State :=
    match (s.fn fn).placing with
    | none => s
    | some (id, i) =>
      match s.launchOf id with
      | none => s
      | some l => State.placeRoots fn c l ((wordAt b 0).getLsbD 32) (roots.drop i) i s
  if (s.fn fn).placing.isSome then go s
  else
    match s.takeWords (rootDies (roots.map Prod.fst)) with
    | none => s.await fn c
    | some w => go (s.openLaunch fn c b w)

/-- A LAUNCH that places nothing has its record written, and signals where its descriptor's header says so (R391, R392; DEDUCED, log 95). -/
def State.finishLaunch (s : State) (fn : Nat) (c : Command) (h : List Byte) (status : BitVec 8) (detail : Word) : State :=
  let s := s.finish fn c status 0 detail
  if (wordAt h 0).getLsbD 33 then s.signal fn (wfld (wordAt h 0) 16 11) else s

/-- Read n bytes of host memory for a LAUNCH whose header is at hand. -/
def State.launchRead (s : State) (fn : Nat) (c : Command) (h : List Byte) (a n : Nat) (k : List Byte → State) : State :=
  match s.mailBytes fn false true (span a n) with
  | .error e => s.finishLaunch fn c h 6 (BitVec.ofNat 64 e)
  | .ok l => k (l.map (byteAt s.mem))

/-- LAUNCH reads its descriptor, checks it, and places its roots (R392, R393). -/
def State.launchOp (s : State) (fn : Nat) (c : Command) : State :=
  let a := c.w1.toNat
  s.withMail fn c (spanPages a 64 false) (s.hostRead fn c a 64 fun h =>
    if !headerOk h then s.finishLaunch fn c h 3 0
    else
      let n := wfld (wordAt h 0) 0 16
      s.withMail fn c (spanPages a (64 + 128 * n) false) (s.launchRead fn c h a (64 + 128 * n) fun b =>
        let roots := (List.range n).map (rootAt b)
        if !roots.all (s.rootOk fn) then s.finishLaunch fn c h 3 0
        else
          s.withMail fn c (roots.flatMap Root.pages) (match s.images fn roots with
            | .error e => s.finishLaunch fn c h 6 (BitVec.ofNat 64 e)
            | .ok l => s.launchRoots fn c b l)))

/-- LAUNCH (R393). -/
def execLaunch (fn : Nat) (c : Command) (s : State) : Out := .next (s.apply fn c 3 (wfld c.w1 0 6 = 0) (s.launchOp fn c))

/-- A launch join word is zero or BROKEN (R394). -/
def State.wordDone (s : State) (a : Nat) : Bool := tagAt s.tags a = tagBroken || readNat s.mem a 8 = 0

/-- The OPEN conditions of a launch, in ascending id. -/
def State.launchConds (s : State) (id : Nat) : List (Nat × Nat) :=
  s.dies.flatMap fun (d : Nat × Die) => (d.2.conds.filter fun c => c.2.launch = id).map fun c => (d.1, c.1)

/-- The launch's open conditions are resolved false (R326). -/
def State.resolveLaunch (s : State) (id : Nat) : State :=
  (s.launchConds id).foldl (fun s e =>
    if (s.die e.1).conds.any fun c => c.1 = e.2 then State.resolveFalse (condCount + 1) e.1 e.2 (s.learn e.1 e.2 false) else s) s

/-- A task of a launch that is not speculative remains (R394; log 83). -/
def State.launchRuns (s : State) (id : Nat) : Bool :=
  (s.cores.any fun q => q.2.deque.any fun r => r.launch = id && r.trec.conds.isEmpty) ||
    (s.ctxs.any fun x => x.2.task.any fun t => t.launch = id && t.trec.conds.isEmpty) ||
    (s.saved.any fun t => t.ctx.task.any fun k => k.launch = id && k.trec.conds.isEmpty) ||
    s.ended.any fun e => e.task.launch = id && e.task.trec.conds.isEmpty

/-- A task of a launch remains, or one of its writes has not been performed, the replay queues included (R394). -/
def State.launchBusy (s : State) (id : Nat) : Bool :=
  let mine (uid : Nat) : Bool := (s.taskInfo uid).launch = id
  (s.cores.any fun q => q.2.deque.any (fun r => r.launch = id) || q.2.replay.any fun p => mine p.uid) ||
    (s.ctxs.any fun x => x.2.task.any fun t => t.launch = id) || (s.saved.any fun t => t.ctx.task.any fun k => k.launch = id) ||
    (s.ended.any fun e => e.task.launch = id) || (s.moves.any fun m => mine m.uid) || (s.msends.any fun m => mine m.uid) ||
    s.eoss.any fun m => mine m.uid

/-- The pages of the kill records still to be written (R395). -/
def Launch.recordPages (l : Launch) : List Nat :=
  (l.kills.flatMap fun k => match k.base with
    | some b => if k.record.isEmpty || wfld b 57 7 ≠ 0 then [] else pagesOf b.toNat k.record.length
    | none => []).eraseDups

/-- The answer at hand for a page of a launch's kill records. -/
def Launch.page (l : Launch) (p : Nat) : Option XRes := (l.pages.find? fun a => a.page = p && a.write).map PageRes.res

/-- Write one kill record where its save area can be written (R359, R395); its pages are logged as dirty (R402). -/
def State.writeKill (s : State) (l : Launch) (k : Kill) : State :=
  match k.base with
  | none => s
  | some b =>
    let bytes := (k.record.mapIdx fun i x => (b.toNat + i, x)).filterMap fun e => match l.page (e.1 / 4096) with
      | some (.at t _ _) => some (t + e.1 % 4096, e.2)
      | _ => none
    let pages := (pagesOf b.toNat k.record.length).filter fun p => match l.page p with
      | some (.at _ _ _) => true
      | _ => false
    { s with mem := writeAll s.mem bytes }.logEntries (pages.map fun p => ⟨l.pasid, 0, p, 0, true, true, true⟩)

/-- DETAIL of a launch: the save area with the kill record of lowest SEQ (R389). -/
def Launch.detail (l : Launch) : Word :=
  match sortBy Kill.seq (l.kills.filter fun k => k.base.isSome) with
  | k :: _ => k.base.getD 0
  | [] => 0

/-- A launch completes (R394): kill records, dirty bits, the record, its join words, its signal. -/
def State.closeLaunch (s : State) (l : Launch) : State :=
  let s := (l.kills.foldl (fun s k => s.writeKill l k) s).harvestPasid l.pasid
  let s := { s with launches := s.launches.filter fun o => o.id ≠ l.id, evTurn := true }
  if l.mute then s
  else
    let status : BitVec 8 := if l.torn then 2 else if l.kills.isEmpty then 0 else 1
    let s := s.writeRecord l.fn (record l.op status l.pasid l.user (BitVec.ofNat 64 l.kills.length) l.detail l.index)
    if l.irq then s.signal l.fn l.vec else s

/-- LAUNCH_COMPLETION (R326, R394): once the join words are done and no task of the launch runs on but speculative ones, its open conditions
are resolved; once nothing of the launch remains it completes. -/
def execLaunchCompletion (id : Nat) (s : State) : Out :=
  .next (match s.launchOf id with
    | none => s
    | some l =>
      if !l.words.all s.wordDone || (s.fn l.fn).placing.any (fun p => p.1 = id) || s.launchRuns id then s
      else if (s.launchConds id).any fun e => s.dieResolving e.1 then s
      else if !(s.launchConds id).isEmpty then { s.resolveLaunch id with evTurn := true }
      else if s.launchBusy id then s
      else
        match l.recordPages.find? fun p => (l.page p).isNone with
        | some p => s.askPage 0 l.pasid p true [] [17 + id]
        | none => if l.mute || (s.fn l.fn).slotFree then s.closeLaunch l else s)

end Sys2Proof.Machine
end

