-- ==== Sys2Proof/Machine/Translation.lean ====
section
/-! DEFINITION. What the host's translation agent sends: translation responses, answers to page requests, invalidations; the
dirty-log sweep (R276-R278, R398-R402). -/

namespace Sys2Proof.Machine

/-- A page of memory that exists: in host memory or in the 1,024 GB of HBM (R2, R382). -/
def backed (target n : Nat) : Bool := target + n ≤ 2 ^ 64 || (2 ^ 64 ≤ target && target + n ≤ 2 ^ 64 + hbmBytes)

/-- What a response gives an access (R398). A page that grants only the other access is treated as one of the wrong access type. -/
def replyRes (page : Nat) (write : Bool) : AtsReply → XRes
  | .granted target size r w =>
    if (if write then w else r) then .at (target + page * 4096 % pageBytes size) r w
    else if r || w then .readOnly
    else .absent
  | .absent => .absent
  | .failed => .failed

/-- The cache entry that a response makes. -/
def replyEntry (pasid : BitVec 20) (page : Nat) : AtsReply → Option TEntry
  | .granted target size r w => if r || w then some ⟨pasid, size, page * 4096 / pageBytes size, target, r, w, false⟩ else none
  | _ => none

/-- Give contexts that wait on a request its answer. -/
def State.answerCtx (s : State) (pasid : BitVec 20) (a : PageRes) (e : Option TEntry) (c : Nat) : State :=
  if (s.ctx c).pasid = pasid && (s.ctx c).task.isSome then
    let s := s.modCtx c fun x => { x with pages := x.pages ++ [a] }
    match e with
    | some e => s.fillTlb (coreOf c) e
    | none => s
  else s

/-- Give the mailbox's users their answer: functions by number, launches from 17 on. -/
def State.answerMail (s : State) (a : PageRes) (n : Nat) : State :=
  if n < 17 then s.modFn n fun f => { f with pages := f.pages ++ [a] }
  else { s with launches := updWhere (fun l => l.id = n - 17) (fun l => { l with pages := l.pages ++ [a] }) s.launches }

/-- Change every core of a die. -/
def State.mapCores (s : State) (d : Nat) (f : Core → Core) : State :=
  let g (e : Nat × Core) : Nat × Core := if dieOfCore e.1 = d then (e.1, f e.2) else e
  { s with cores := s.cores.map g }

/-- The cores of a die that hold a parked entry of a kind. -/
def State.parkedCores (s : State) (d : Nat) (t : Parked → Bool) : List Nat :=
  let hit (e : Nat × Core) : Bool := dieOfCore e.1 = d && e.2.replay.any t
  (s.cores.filter hit).map Prod.fst

/-- The PREQs of a die that have a page in a state of its wait. -/
def State.preqs (s : State) (d : Nat) (pasid : BitVec 20) (page : Nat) (w : PageWait) : List Move :=
  let hit (m : Move) : Bool := m.kind = .preq && m.pasid = pasid && dieOf m.ctx = d && m.pages.any fun p => p = (page, w)
  s.moves.filter hit

/-- Entries parked for a page that a fresh translation is asked for. -/
def Parked.asks (p : Parked) (pasid : BitVec 20) (page : Nat) : Bool := p.ready && p.pasid = pasid && p.page = page

/-- The bytes of a replayed entry that its page takes now: those in host memory, and those of an Own segment of the task that parked them,
or of any if it has ended; a byte of another role, or of no object, is discarded (R190, R193; DESIGN CHOICE, log 24). -/
def State.replayTakes (s : State) (uid pa : Nat) : Bool :=
  inHost pa || (match s.findObj pa with
    | some (_, _, o) => match o.segAt (pa - hbmPA o.base) with
      | some g => g.role = .own && (g.owner = some uid || (s.taskInfo uid).ended)
      | none => false
    | none => false)

/-- Bytes of a TSTF whose stream is not known yet. -/
def Parked.produces (p : Parked) (op : Nat) : Bool := p.op = op && (match p.kind with | .produce _ _ _ => true | _ => false)

/-- An entry of a TSTF whose stream is not known waits for the entry of the TSTF's first byte (R270; log 84). -/
def Parked.waitsFirst (p : Parked) : Bool :=
  match p.kind with
  | .produce va _ _ => p.bytes.head?.any fun e => e.1 ≠ va
  | _ => false

/-- What is left parked of a TSTF that writes nothing is discarded; its status is zero, with the FST and ATTN flags given (R271, R274; log
84). -/
def State.endProduce (s : State) (q : Nat) (p : Parked) (fst attn : Word) : State :=
  let s := s.modCore q fun x => { x with replay := x.replay.filter fun o => !o.produces p.op }
  { s with moves := updWhere (fun m => m.id = p.op) (fun m => { m with quiet := true }) s.moves }.flagTask p.ctx p.uid fst attn

/-- The page of a parked TSTF's first byte is present: the TSTF reserves its whole range, as at an issue (R205, R270, R271). In append mode
its bytes are then written; in cursor mode those of its other pages stay parked for theirs. One that R205, R269, R270 or R274 refuses
writes nothing (DESIGN CHOICE, log 84). pa is the first byte's place, q its core. -/
def State.replayProduce (s : State) (q : Nat) (p : Parked) (pa n count : Nat) : State :=
  match s.findObj pa with
  | none => s.endProduce q p 0 0
  | some (d, slot, o) =>
    let a := pa - hbmPA o.base
    match o.stream, (o.segAt a).any (·.role.isFlow) with
    | some t, true =>
      if o.brk then s.endProduce q p flagBRK 0
      else if n % o.flowSize ≠ 0 || a % o.flowSize ≠ 0 || (t.append && a ≠ o.flowStart) then s.endProduce q p 0 0
      else
        match o.reserve t p.uid a n with
        | .refused _ => s.endProduce q p 0 0
        | .dropped => (s.modStream d slot fun t => { t with d := t.d + count }).endProduce q p 0 attnEDROP
        | .at off =>
          let f : FlowEnd := ⟨d, slot, off, n⟩
          let s := s.modStream d slot fun t => t.take p.uid off n
          let rest := (s.core q).replay.filter fun o => o.produces p.op
          let bytes := if t.append then (p :: rest).flatMap (·.bytes) else p.bytes
          let s := { s with mem := writeBytes s.mem (hbmPA (o.base + off)) (bytes.map Prod.snd) }
          let flow (o : Parked) : Parked := if o.produces p.op then { o with kind := .flow f } else o
          (s.modCore q fun x => { x with
            replay := if t.append then x.replay.filter (fun o => !o.produces p.op) else x.replay.map flow }).publishFlow q f
    | _, _ => s.endProduce q p 0 0

/-- Replay one parked entry at its page's target (R276): its bytes, its Fold update where the page is in a Fold segment, or its part of a
Flow range. -/
def State.replayOne (s : State) (q target : Nat) (p : Parked) : State :=
  let l := p.bytes.map fun (e : Nat × Byte) => (target + e.1 % 4096, e.2)
  let s := s.markDirty q p.pasid p.page
  match p.kind with
  | .fold _ x told =>
    match l.head? with
    | none => s
    | some (pa, _) =>
      match (s.findObj pa).bind fun r => r.2.2.segAt (pa - hbmPA r.2.2.base) with
      | some g => match g.role with
        | .fold op sc =>
          let r := s.foldAt pa op sc x
          if told then r.1 else r.1.flagTask p.ctx p.uid r.2 0
        | _ => s
      | none => s
  | .bytes => { s with mem := writeAll s.mem (l.filter fun e => s.replayTakes p.uid e.1) }
  | .flow f => { s with mem := writeAll s.mem l }.publishFlow q f
  | .produce _ n count => l.head?.elim s fun e => s.replayProduce q p e.1 n count

/-- The entries of a page that replay now, in the order in which they were parked (R276): those before one that waits for another entry. -/
def State.replays (s : State) (q : Nat) (pasid : BitVec 20) (page : Nat) : List Parked :=
  ((s.core q).replay.filter fun p => p.pasid = pasid && p.page = page).takeWhile fun p => p.ready && !p.waitsFirst

/-- Replay a core's entries of a page (R276). -/
def State.replayPage (s : State) (q : Nat) (pasid : BitVec 20) (page target : Nat) (e : Option TEntry) : State :=
  let l := s.replays q pasid page
  if l.isEmpty then s
  else
    let s := match e with
      | some e => s.fillTlb q e
      | none => s
    l.foldl (fun s p => (s.modCore q fun x => { x with replay := x.replay.erase p }).replayOne q target p) s

/-- A page of a PREQ in a state of its wait takes another (R219). -/
def State.answerPreq (s : State) (d : Nat) (pasid : BitVec 20) (page : Nat) (old new : PageWait) : State :=
  let set (m : Move) : Move := { m with pages := m.pages.map fun p => if p.1 = page && p.2 = old then (page, new) else p }
  let mine (m : Move) : Bool := m.kind = .preq && m.pasid = pasid && dieOf m.ctx = d
  { s with moves := updWhere mine set s.moves }

/-- The task that parked an entry faults: a commit error where a commit parked it (R278, R322). Its fault is recorded at the denial, within
the skid that State.mayDispatch keeps, and names no entry (R359; DESIGN CHOICE, log 100). -/
def State.denyOne (s : State) (p : Parked) : State :=
  let addr : Word := BitVec.ofNat 64 (p.page * 4096)
  if p.commit then s.commitFail p.uid (commitFault 3 0)
  else s.faultTask p.ctx p.uid ⟨0x22, 0, 0, addr, 0, 0, 0, 0, 0, 0, true, true⟩

/-- A denied page of a die: its entries are discarded, with what is left of a TSTF that has not found its stream, and each task that
parked one, or whose PREQ asked, faults (R278). -/
def State.deny (s : State) (d : Nat) (pasid : BitVec 20) (page : Nat) : State :=
  let on (p : Parked) : Bool := p.pasid = pasid && p.page = page
  let lost := ((s.parkedCores d on).flatMap fun q => (s.core q).replay.filter on).filter fun p => p.produces p.op
  let hit (p : Parked) : Bool := on p || lost.any fun o => p.produces o.op
  let parked := (s.parkedCores d hit).flatMap fun q => (s.core q).replay.filter hit
  let s := s.mapCores d fun x => { x with replay := x.replay.filter fun p => !hit p }
  let asks := s.preqs d pasid page .host
  let s := s.answerPreq d pasid page .host .missing
  let s := parked.foldl State.denyOne s
  asks.foldl (fun s m => s.faultTask m.ctx m.uid ⟨0x22, 0, 0, BitVec.ofNat 64 (page * 4096), 0, 0, 0, 0, 0, 0, true, true⟩) s

/-- A fresh translation of a page with parked entries has its answer: they replay, wait for the host again, or are denied. -/
def State.answerReplay (s : State) (d : Nat) (pasid : BitVec 20) (page : Nat) (r : XRes) (e : Option TEntry) : State :=
  let cores := s.parkedCores d fun p => p.asks pasid page
  match r with
  | .at t _ _ => (cores.foldl (fun s q => s.replayPage q pasid page t e) s).answerPreq d pasid page .translation .present
  | .absent =>
    let s := s.answerPreq d pasid page .translation .missing
    if cores.isEmpty then s
    else
      let unready (p : Parked) : Parked := { p with ready := false }
      (s.mapCores d fun x => { x with replay := updWhere (fun p => p.asks pasid page) unready x.replay }).askPri d pasid page
  | _ =>
    let s := s.answerPreq d pasid page .translation .missing
    if cores.isEmpty then s else s.deny d pasid page

/-- TRANSLATION_RESPONSE (R398): the answer to an outstanding request. One of a page of no size of R398 is no answer; a target outside the
memory that exists is not covered. -/
def execTranslationResponse (d : Nat) (pasid : BitVec 20) (page : Nat) (write : Bool) (reply : AtsReply) (s : State) : Out :=
  let mine (r : AtsReq) : Bool := r.pasid = pasid && r.page = page && r.write = write
  match (s.die d).ats.find? mine with
  | none => .next s
  | some r =>
    let go (reply : AtsReply) : State :=
      let res := replyRes page write reply
      let e := replyEntry pasid page reply
      let a : PageRes := ⟨page, write, res⟩
      let s := s.modDie d fun x => { x with ats := x.ats.filter fun o => !mine o }
      let s := r.ctxs.foldl (fun s c => s.answerCtx pasid a e c) s
      let s := r.fns.foldl (fun s n => s.answerMail a n) s
      { (if write then s.answerReplay d pasid page res e else s) with evTurn := true }
    match reply with
    | .granted target size rd wr =>
      if size = 3 then .next s
      else
      let n := pageBytes size
      let base := target / n * n
      if !(rd || wr) || backed base n then .next (go (.granted base size rd wr)) else .fault (.unbackedMemory base)
    | _ => .next (go reply)

/-- PAGE_REQUEST_RESPONSE (R278, R400): the lowest die that has asked takes the answer. -/
def execPageRequestResponse (pasid : BitVec 20) (page : Nat) (success : Bool) (s : State) : Out :=
  .next (match [0, 1].find? fun d => (s.die d).pri.any fun r => r.pasid = pasid && r.page = page with
    | none => s
    | some d =>
      let s := { s.modDie d fun x => { x with pri := x.pri.filter fun r => !(r.pasid = pasid && r.page = page) } with evTurn := true }
      if success then
        let mine (p : Parked) : Bool := p.pasid = pasid && p.page = page
        let set (p : Parked) : Parked := { p with ready := true }
        let s := s.mapCores d fun x => { x with replay := updWhere mine set x.replay }
        let s := s.answerPreq d pasid page .host .translation
        if (s.parkedCores d mine).isEmpty && (s.preqs d pasid page .translation).isEmpty then s else s.askPage d pasid page true [] []
      else s.deny d pasid page)

/-- Requests that found no room before (R398, R400): for a parked entry or a page of a PREQ that no request stands for, one is made when a
die has room. -/
def State.lateAsk (s : State) : Option State :=
  let pri (d : Nat) (pasid : BitVec 20) (page : Nat) : Option State :=
    if ((s.die d).pri.any fun r => r.pasid = pasid && r.page = page) || 512 ≤ (s.die d).pri.length then none else some (s.askPri d pasid page)
  let ats (d : Nat) (pasid : BitVec 20) (page : Nat) : Option State :=
    if ((s.die d).ats.any fun r => r.pasid = pasid && r.page = page && r.write) || 256 ≤ (s.die d).ats.length then none
    else some (s.askPage d pasid page true [] [])
  (s.cores.findSome? fun q => q.2.replay.findSome? fun p =>
      if p.ready && (s.replays q.1 p.pasid p.page).isEmpty then none else (if p.ready then ats else pri) (dieOfCore q.1) p.pasid p.page) <|>
    s.moves.findSome? fun m => m.pages.findSome? fun p => match p.2 with
      | .host => pri (dieOf m.ctx) m.pasid p.1
      | .translation => ats (dieOf m.ctx) m.pasid p.1
      | _ => none

/-- A page of 4 KiB meets a range of virtual addresses. -/
def pageIn (start len page : Nat) : Bool := page * 4096 < start + len && start < (page + 1) * 4096

/-- A byte of a buffered effect's end loses its translation (R399). -/
def PByte.forget (start len : Nat) : PByte → PByte
  | .virt va (some pa) => if start ≤ va && va < start + len then .virt va none else .virt va (some pa)
  | b => b

/-- A buffered effect translates again at commit (R399). -/
def Effect.forget (pasid : BitVec 20) (start len : Nat) : Effect → Effect
  | .move m => if m.pasid = pasid then .move { m with dst := m.dst.map (PByte.forget start len) } else .move m
  | .msend m => if m.pasid = pasid then .msend { m with dst := m.dst.map (PByte.forget start len) } else .msend m
  | e => e

/-- A context forgets the translations that it has gathered in a range, and its buffered effects theirs. -/
def Ctx.forget (pasid : BitVec 20) (start len : Nat) (x : Ctx) : Ctx :=
  if x.pasid = pasid then
    { x with
      pages := x.pages.filter fun p => !pageIn start len p.page
      task := x.task.map fun t => { t with effects := t.effects.map (Effect.forget pasid start len) } }
  else x

/-- INVALIDATION_REQUEST (R399). -/
def execInvalidationRequest (pasid : BitVec 20) (start len : Nat) (s : State) : Out :=
  .next (
    let hit (e : TEntry) : Bool := e.within pasid start len
    let out (p : PageRes) : Bool := !pageIn start len p.page
    let gone := s.cores.flatMap fun (q : Nat × Core) => q.2.tlb.filter hit
    let moved (m : Move) : Bool := m.pasid = pasid && (m.vread ++ m.vwrite).any (pageIn start len)
    let sent (m : Msend) : Bool := m.pasid = pasid && m.vwrite.any (pageIn start len)
    let ended (m : EosMsg) : Bool := m.pasid = pasid && m.vwrite.any (pageIn start len)
    let v : Inval := ⟨pasid, start, len, gone.filter TEntry.dirty, (s.moves.filter moved).map Move.id, (s.msends.filter sent).map Msend.id ++ (s.eoss.filter ended).map EosMsg.id⟩
    let core (q : Nat × Core) : Nat × Core := (q.1, { q.2 with tlb := q.2.tlb.filter fun e => !hit e })
    let ctx (x : Nat × Ctx) : Nat × Ctx := (x.1, x.2.forget pasid start len)
    let save (t : SavedTask) : SavedTask := { t with ctx := t.ctx.forget pasid start len }
    let finished (e : EndedTask) : EndedTask := { e with task := { e.task with effects := e.task.effects.map (Effect.forget pasid start len) } }
    let fn (f : Nat × FnRegs) : Nat × FnRegs := (f.1, { f.2 with pages := f.2.pages.filter out })
    let launch (l : Launch) : Launch := if l.pasid = pasid then { l with pages := l.pages.filter out } else l
    let t : State := { s with
      cores := s.cores.map core
      ctxs := s.ctxs.map ctx
      saved := s.saved.map save
      ended := s.ended.map finished
      fns := s.fns.map fn
      launches := s.launches.map launch
      invals := s.invals ++ [v]
      evTurn := true }
    t.settleInvals)

/-- DIRTY_LOG_SWEEP (R402): every dirty entry of a PASID that has a log. -/
def execDirtyLogSweep (s : State) : Out :=
  .next ((s.dlogs.map Prod.fst).foldl (fun s p => s.harvestPasid (BitVec.ofNat 20 p)) s)

end Sys2Proof.Machine
end

