-- ==== Sys2Proof/Machine/Dispatch.lean ====
section
/-! DEFINITION. The dispatch of an instruction or event to its meaning, one arm per row of the opcode table. -/

namespace Sys2Proof.Machine

def exec (i : Instr) (s : State) : Host.Outcome State Fault Refusal :=
  match i with
  | .add g d a b w => Sys2Proof.Machine.execAdd g d a b w s
  | .sub g d a b w => Sys2Proof.Machine.execSub g d a b w s
  | .and g d a b w => Sys2Proof.Machine.execAnd g d a b w s
  | .or g d a b w => Sys2Proof.Machine.execOr g d a b w s
  | .xor g d a b w => Sys2Proof.Machine.execXor g d a b w s
  | .andn g d a b w => Sys2Proof.Machine.execAndn g d a b w s
  | .shl g d a b w => Sys2Proof.Machine.execShl g d a b w s
  | .shr g d a b w => Sys2Proof.Machine.execShr g d a b w s
  | .sar g d a b w => Sys2Proof.Machine.execSar g d a b w s
  | .mul g d a b w => Sys2Proof.Machine.execMul g d a b w s
  | .mulh g d a b w => Sys2Proof.Machine.execMulh g d a b w s
  | .mulhz g d a b w => Sys2Proof.Machine.execMulhz g d a b w s
  | .div g d a b w => Sys2Proof.Machine.execDiv g d a b w s
  | .divz g d a b w => Sys2Proof.Machine.execDivz g d a b w s
  | .rem g d a b w => Sys2Proof.Machine.execRem g d a b w s
  | .remz g d a b w => Sys2Proof.Machine.execRemz g d a b w s
  | .min g d a b w => Sys2Proof.Machine.execMin g d a b w s
  | .max g d a b w => Sys2Proof.Machine.execMax g d a b w s
  | .minz g d a b w => Sys2Proof.Machine.execMinz g d a b w s
  | .maxz g d a b w => Sys2Proof.Machine.execMaxz g d a b w s
  | .sadd d a b k => Sys2Proof.Machine.execSadd d a b k s
  | .clz g d a w => Sys2Proof.Machine.execClz g d a w s
  | .popc g d a w => Sys2Proof.Machine.execPopc g d a w s
  | .sext g d a sf => Sys2Proof.Machine.execSext g d a sf s
  | .zext g d a sf => Sys2Proof.Machine.execZext g d a sf s
  | .sel d a b p => Sys2Proof.Machine.execSel d a b p s
  | .cmp p c a b u w => Sys2Proof.Machine.execCmp p c a b u w s
  | .cmpi p c a im => Sys2Proof.Machine.execCmpi p c a im s
  | .plog d a b o => Sys2Proof.Machine.execPlog d a b o s
  | .movp r x p => Sys2Proof.Machine.execMovp r x p s
  | .addi d a im => Sys2Proof.Machine.execAddi d a im s
  | .andi d a im => Sys2Proof.Machine.execAndi d a im s
  | .ori d a im => Sys2Proof.Machine.execOri d a im s
  | .xori d a im => Sys2Proof.Machine.execXori d a im s
  | .shli d a sf => Sys2Proof.Machine.execShli d a sf s
  | .shri d a sf => Sys2Proof.Machine.execShri d a sf s
  | .sari d a sf => Sys2Proof.Machine.execSari d a sf s
  | .muli d a im => Sys2Proof.Machine.execMuli d a im s
  | .lil d im => Sys2Proof.Machine.execLil d im s
  | .lih d im => Sys2Proof.Machine.execLih d im s
  | .liu d im => Sys2Proof.Machine.execLiu d im s
  | .lix d im => Sys2Proof.Machine.execLix d im s
  | .ldb d a o => Sys2Proof.Machine.execLdb d a o s
  | .ldbz d a o => Sys2Proof.Machine.execLdbz d a o s
  | .ldh d a o => Sys2Proof.Machine.execLdh d a o s
  | .ldhz d a o => Sys2Proof.Machine.execLdhz d a o s
  | .ldw d a o => Sys2Proof.Machine.execLdw d a o s
  | .ldwz d a o => Sys2Proof.Machine.execLdwz d a o s
  | .ldd d a o => Sys2Proof.Machine.execLdd d a o s
  | .stb sf a o => Sys2Proof.Machine.execStb sf a o s
  | .sth sf a o => Sys2Proof.Machine.execSth sf a o s
  | .stw sf a o => Sys2Proof.Machine.execStw sf a o s
  | .std sf a o => Sys2Proof.Machine.execStd sf a o s
  | .ldf d a o => Sys2Proof.Machine.execLdf d a o s
  | .ldfe d a o => Sys2Proof.Machine.execLdfe d a o s
  | .ste sf a o => Sys2Proof.Machine.execSte sf a o s
  | .stfl sf a o => Sys2Proof.Machine.execStfl sf a o s
  | .tagget d a o => Sys2Proof.Machine.execTagget d a o s
  | .tagset sf a o => Sys2Proof.Machine.execTagset sf a o s
  | .shw sf h f a => Sys2Proof.Machine.execShw sf h f a s
  | .csrr d c => Sys2Proof.Machine.execCsrr d c s
  | .csrw a c => Sys2Proof.Machine.execCsrw a c s
  | .branch g n d => Sys2Proof.Machine.execBranch g n d s
  | .jal d im => Sys2Proof.Machine.execJal d im s
  | .jr g a => Sys2Proof.Machine.execJr g a s
  | .vadd m t d a b => Sys2Proof.Machine.execVadd m t d a b s
  | .vsub m t d a b => Sys2Proof.Machine.execVsub m t d a b s
  | .vmul m t d a b => Sys2Proof.Machine.execVmul m t d a b s
  | .vfma m t d a b => Sys2Proof.Machine.execVfma m t d a b s
  | .vmin m t d a b => Sys2Proof.Machine.execVmin m t d a b s
  | .vmax m t d a b => Sys2Proof.Machine.execVmax m t d a b s
  | .vabs m t d a => Sys2Proof.Machine.execVabs m t d a s
  | .vneg m t d a => Sys2Proof.Machine.execVneg m t d a s
  | .vand m d a b => Sys2Proof.Machine.execVand m d a b s
  | .vor m d a b => Sys2Proof.Machine.execVor m d a b s
  | .vxor m d a b => Sys2Proof.Machine.execVxor m d a b s
  | .vshl m d a b => Sys2Proof.Machine.execVshl m d a b s
  | .vshr m d a b => Sys2Proof.Machine.execVshr m d a b s
  | .vsar m d a b => Sys2Proof.Machine.execVsar m d a b s
  | .vcmp m t c p a b => Sys2Proof.Machine.execVcmp m t c p a b s
  | .vsel m d a b => Sys2Proof.Machine.execVsel m d a b s
  | .vcvt m d a c => Sys2Proof.Machine.execVcvt m d a c s
  | .vquant m d a f => Sys2Proof.Machine.execVquant m d a f s
  | .vdeq m d a f => Sys2Proof.Machine.execVdeq m d a f s
  | .vred m t d a o => Sys2Proof.Machine.execVred m t d a o s
  | .vscan m t d a o => Sys2Proof.Machine.execVscan m t d a o s
  | .vexp2 m d a => Sys2Proof.Machine.execVexp2 m d a s
  | .vlog2 m d a => Sys2Proof.Machine.execVlog2 m d a s
  | .vrcp m d a => Sys2Proof.Machine.execVrcp m d a s
  | .vrsq m d a => Sys2Proof.Machine.execVrsq m d a s
  | .vsort m t d a x o => Sys2Proof.Machine.execVsort m t d a x o s
  | .vperm m d a b => Sys2Proof.Machine.execVperm m d a b s
  | .vbcast m d a => Sys2Proof.Machine.execVbcast m d a s
  | .vget t d a b => Sys2Proof.Machine.execVget t d a b s
  | .viota m d => Sys2Proof.Machine.execViota m d s
  | .vmov m d a => Sys2Proof.Machine.execVmov m d a s
  | .vcmul m d a b => Sys2Proof.Machine.execVcmul m d a b s
  | .vtwosum m d a b => Sys2Proof.Machine.execVtwosum m d a b s
  | .vld m d a x z => Sys2Proof.Machine.execVld m d a x z s
  | .vst m d a z => Sys2Proof.Machine.execVst m d a z s
  | .vldx m d a b => Sys2Proof.Machine.execVldx m d a b s
  | .vstx m d a b => Sys2Proof.Machine.execVstx m d a b s
  | .vlend n k => Sys2Proof.Machine.execVlend n k s
  | .vrecl n => Sys2Proof.Machine.execVrecl n s
  | .vpopc m d a => Sys2Proof.Machine.execVpopc m d a s
  | .trin g v => Sys2Proof.Machine.execTrin g v s
  | .trpop g v => Sys2Proof.Machine.execTrpop g v s
  | .trcfg g r sf => Sys2Proof.Machine.execTrcfg g r sf s
  | .trclr g => Sys2Proof.Machine.execTrclr g s
  | .mma g w t a b z v k p => Sys2Proof.Machine.execMma g w t a b z v k p s
  | .mmav g w t a b z v k p => Sys2Proof.Machine.execMmav g w t a b z v k p s
  | .mcma g w t a b z k p => Sys2Proof.Machine.execMcma g w t a b z k p s
  | .mzero g t k => Sys2Proof.Machine.execMzero g t k s
  | .mdrain g w t a z k d => Sys2Proof.Machine.execMdrain g w t a z k d s
  | .mfill g w t a k => Sys2Proof.Machine.execMfill g w t a k s
  | .mfmt g a b k => Sys2Proof.Machine.execMfmt g a b k s
  | .mnop g k => Sys2Proof.Machine.execMnop g k s
  | .tld g w h a b p => Sys2Proof.Machine.execTld g w h a b p s
  | .tst g w h a b p => Sys2Proof.Machine.execTst g w h a b p s
  | .tmov g w h a b p => Sys2Proof.Machine.execTmov g w h a b p s
  | .tmc g w h a b p => Sys2Proof.Machine.execTmc g w h a b p s
  | .tldf g w h a b p => Sys2Proof.Machine.execTldf g w h a b p s
  | .tstf g w h a b p => Sys2Proof.Machine.execTstf g w h a b p s
  | .tacc g w h a b p => Sys2Proof.Machine.execTacc g w h a b p s
  | .sld g w h a n => Sys2Proof.Machine.execSld g w h a n s
  | .twait g a p => Sys2Proof.Machine.execTwait g a p s
  | .ttag g h a b => Sys2Proof.Machine.execTtag g h a b s
  | .preq g a b p => Sys2Proof.Machine.execPreq g a b p s
  | .loop b a => Sys2Proof.Machine.execLoop b a s
  | .loopn b h => Sys2Proof.Machine.execLoopn b h s
  | .loopp b h sf => Sys2Proof.Machine.execLoopp b h sf s
  | .fence sf => Sys2Proof.Machine.execFence sf s
  | .arrive a r => Sys2Proof.Machine.execArrive a r s
  | .waitb a p => Sys2Proof.Machine.execWaitb a p s
  | .bari a b => Sys2Proof.Machine.execBari a b s
  | .spawn t a b o p => Sys2Proof.Machine.execSpawn t a b o p s
  | .spawnc t a b c p => Sys2Proof.Machine.execSpawnc t a b c p s
  | .endTask => Sys2Proof.Machine.execEndTask s
  | .cnew d p => Sys2Proof.Machine.execCnew d p s
  | .resolve a p => Sys2Proof.Machine.execResolve a p s
  | .recast a b c => Sys2Proof.Machine.execRecast a b c s
  | .halloc d a b p => Sys2Proof.Machine.execHalloc d a b p s
  | .hfree a => Sys2Proof.Machine.execHfree a s
  | .hpin d a p => Sys2Proof.Machine.execHpin d a p s
  | .hdrop a => Sys2Proof.Machine.execHdrop a s
  | .hweak d a => Sys2Proof.Machine.execHweak d a s
  | .hprio a k => Sys2Proof.Machine.execHprio a k s
  | .msend a b sf => Sys2Proof.Machine.execMsend a b sf s
  | .eos a => Sys2Proof.Machine.execEos a s
  | .chkeq a b => Sys2Proof.Machine.execChkeq a b s
  | .trap im => Sys2Proof.Machine.execTrap im s
  | .eret => Sys2Proof.Machine.execEret s
  | .brk im => Sys2Proof.Machine.execBrk im s
  | .yield => Sys2Proof.Machine.execYield s
  | .harvest => Sys2Proof.Machine.execHarvest s
  | .join a p => Sys2Proof.Machine.execJoin a p s
  | .undefinedEncodingTrap c => Sys2Proof.Machine.execUndefinedEncodingTrap c s
  | .budgetOverrun c => Sys2Proof.Machine.execBudgetOverrun c s
  | .landing c => Sys2Proof.Machine.execLanding c s
  | .redirect c => Sys2Proof.Machine.execRedirect c s
  | .loopPass c => Sys2Proof.Machine.execLoopPass c s
  | .loopEnd c => Sys2Proof.Machine.execLoopEnd c s
  | .interlockedCompletion c => Sys2Proof.Machine.execInterlockedCompletion c s
  | .moveCompletion id err failed => Sys2Proof.Machine.execMoveCompletion id err failed s
  | .msendDelivery id => Sys2Proof.Machine.execMsendDelivery id s
  | .eosArrival id => Sys2Proof.Machine.execEosArrival id s
  | .taggedWake c => Sys2Proof.Machine.execTaggedWake c s
  | .waitbWake c => Sys2Proof.Machine.execWaitbWake c s
  | .joinWake c => Sys2Proof.Machine.execJoinWake c s
  | .twaitWake c => Sys2Proof.Machine.execTwaitWake c s
  | .orderingPoint c => Sys2Proof.Machine.execOrderingPoint c s
  | .reclaimWake c => Sys2Proof.Machine.execReclaimWake c s
  | .taskStart c => Sys2Proof.Machine.execTaskStart c s
  | .steal thief victim => Sys2Proof.Machine.execSteal thief victim s
  | .preload core uid => Sys2Proof.Machine.execPreload core uid s
  | .preemptionRequest c => Sys2Proof.Machine.execPreemptionRequest c s
  | .resume uid c => Sys2Proof.Machine.execResume uid c s
  | .impreciseFault c cls sub addr => Sys2Proof.Machine.execImpreciseFault c cls sub addr s
  | .returnToPool die slot => Sys2Proof.Machine.execReturnToPool die slot s
  | .watermarkReclaim die => Sys2Proof.Machine.execWatermarkReclaim die s
  | .launchCompletion launch => Sys2Proof.Machine.execLaunchCompletion launch s
  | .msiXMessage fn vec => Sys2Proof.Machine.execMsiXMessage fn vec s
  | .translationResponse die pasid page write reply => Sys2Proof.Machine.execTranslationResponse die pasid page write reply s
  | .pageRequestResponse pasid page success => Sys2Proof.Machine.execPageRequestResponse pasid page success s
  | .invalidationRequest pasid start len => Sys2Proof.Machine.execInvalidationRequest pasid start len s
  | .dirtyLogSweep => Sys2Proof.Machine.execDirtyLogSweep s
  | .fabricAccess req => Sys2Proof.Machine.execFabricAccess req s
  | .mergedUpdate req => Sys2Proof.Machine.execMergedUpdate req s
  | .bar4Access write offset => Sys2Proof.Machine.execBar4Access write offset s
  | .tailWrite fn v => Sys2Proof.Machine.execTailWrite fn v s
  | .cplheadWrite fn v => Sys2Proof.Machine.execCplheadWrite fn v s
  | .stateWrite fn v => Sys2Proof.Machine.execStateWrite fn v s
  | .varmWrite fn vec v => Sys2Proof.Machine.execVarmWrite fn vec v s
  | .registerWrite fn off v => Sys2Proof.Machine.execRegisterWrite fn off v s
  | .copyin fn cmd => Sys2Proof.Machine.execCopyin fn cmd s
  | .copyout fn cmd => Sys2Proof.Machine.execCopyout fn cmd s
  | .flagWordAcquire fn => Sys2Proof.Machine.execFlagWordAcquire fn s
  | .launch fn cmd => Sys2Proof.Machine.execLaunch fn cmd s
  | .alloc fn cmd => Sys2Proof.Machine.execAlloc fn cmd s
  | .freeCommand fn cmd => Sys2Proof.Machine.execFreeCommand fn cmd s
  | .harvestCommand fn cmd => Sys2Proof.Machine.execHarvestCommand fn cmd s
  | .dlog fn cmd => Sys2Proof.Machine.execDlog fn cmd s
  | .exportCommand fn cmd => Sys2Proof.Machine.execExportCommand fn cmd s
  | .redwin fn cmd => Sys2Proof.Machine.execRedwin fn cmd s
  | .nopCommand fn cmd => Sys2Proof.Machine.execNopCommand fn cmd s
  | .teardown fn cmd => Sys2Proof.Machine.execTeardown fn cmd s
  | .attest fn cmd => Sys2Proof.Machine.execAttest fn cmd s
  | .assign fn cmd => Sys2Proof.Machine.execAssign fn cmd s
  | .ctxcfg fn cmd => Sys2Proof.Machine.execCtxcfg fn cmd s
  | .watermark fn cmd => Sys2Proof.Machine.execWatermark fn cmd s
  | .fabid fn cmd => Sys2Proof.Machine.execFabid fn cmd s
  | .fkey fn cmd => Sys2Proof.Machine.execFkey fn cmd s
  | .fwload fn cmd => Sys2Proof.Machine.execFwload fn cmd s
  | .malformedCommand fn cmd => Sys2Proof.Machine.execMalformedCommand fn cmd s
  | .reset => Sys2Proof.Machine.execReset s
  | .addressSpaceTeardown pasids units => Sys2Proof.Machine.execAddressSpaceTeardown pasids units s
  | .marginReplan die => Sys2Proof.Machine.execMarginReplan die s
  | .replanCompletion die guardBand => Sys2Proof.Machine.execReplanCompletion die guardBand s
  | .rowSparing die row spareError => Sys2Proof.Machine.execRowSparing die row spareError s
  | .quarantineScrub die unit clean => Sys2Proof.Machine.execQuarantineScrub die unit clean s
  | .noMnop c => Sys2Proof.Machine.execNoMnop c s
  | .rowCopyCompletion die row => Sys2Proof.Machine.execRowCopyCompletion die row s
  | .functionLevelReset fn => Sys2Proof.Machine.execFunctionLevelReset fn s

end Sys2Proof.Machine
end

