-- ==== Sys2Proof/Machine/Sched.lean ====
section
/-! DEFINITION. What a step does next (log 6): the choice that the schedule names, or else an event of the device that is due, or
the next syllable of a context; dispatch of bundles (R32-R38, R63-R66, R146-R157, R353, R354). -/

namespace Sys2Proof.Machine

/-- A step: an instruction or event runs at a state, or the state alone moves on. -/
inductive Plan where
  | run (i : Instr) (s : State)
  | next (s : State)
  deriving DecidableEq, Repr

/-- An S0 branch issues after every other syllable of its bundle and everything older (R354). -/
def isBranch : Instr → Bool
  | .branch _ _ _ => true
  | .jal _ _ => true
  | .jr _ _ => true
  | _ => false

/-- END and ERET issue last (R159, R357). -/
def isLast : Instr → Bool
  | .endTask => true
  | .eret => true
  | _ => false

/-- Syllables that access memory, tags, tiles, objects or tasks, or that order such accesses, in slots S0, S1 and V; in slot K the
others. -/
def isScalarAccess : Instr → Bool
  | .ldb _ _ _ | .ldbz _ _ _ | .ldh _ _ _ | .ldhz _ _ _ | .ldw _ _ _ | .ldwz _ _ _ | .ldd _ _ _ => true
  | .stb _ _ _ | .sth _ _ _ | .stw _ _ _ | .std _ _ _ => true
  | .ldf _ _ _ | .ldfe _ _ _ | .ste _ _ _ | .stfl _ _ _ | .tagget _ _ _ | .tagset _ _ _ => true
  | .csrw _ c => c.toNat = csrCTL
  | .vld _ _ _ _ _ | .vst _ _ _ _ | .vldx _ _ _ _ | .vstx _ _ _ _ => true
  | _ => false
def isPlainK : Instr → Bool
  | .loop _ _ | .loopn _ _ | .loopp _ _ _ | .hweak _ _ | .chkeq _ _ | .trap _ | .brk _ | .yield => true
  | _ => false

/-- An acquire: no access of its context at a higher entry is performed before it completes (R202, R253, R259, R261, R266, R267, R319,
R338). -/
def isAcquire : Instr → Bool
  | .ldf _ _ _ | .ldfe _ _ _ => true
  | .waitb _ _ | .join _ _ | .fence _ | .harvest | .hpin _ _ _ | .resolve _ _ | .recast _ _ _ => true
  | _ => false

/-- A release: it waits for the accesses of its context at lower entries (R202, R252, R259, R261, R265, R268, R271, R294, R319, R339, R340). -/
def isRelease : Instr → Bool
  | .ste _ _ _ | .stfl _ _ _ => true
  | .arrive _ r => r = 0
  | .fence _ | .harvest | .spawn _ _ _ _ _ | .spawnc _ _ _ _ _ | .msend _ _ _ | .eos _ => true
  | .resolve _ _ | .recast _ _ _ | .hfree _ | .hdrop _ => true
  | _ => false

/-- RECAST, behind which no younger syllable of its context issues (R202). -/
def isRecast : Instr → Bool
  | .recast _ _ _ => true
  | _ => false

/-- A syllable is an access, or an operation ordered with accesses. -/
def Queued.ordered (q : Queued) : Bool :=
  match q.slot with
  | .ma | .mb | .x => true
  | .t => false
  | .k => !isPlainK q.syl.instr
  | _ => isScalarAccess q.syl.instr

/-- An engine or X syllable. -/
def Queued.onEngine (q : Queued) : Bool := q.slot = .ma || q.slot = .mb || q.slot = .x

/-- A syllable waits for one of another slot at a lower entry to issue: an access for an acquire, a release for an access (R252, R253); an
engine or X syllable and an access of S, V, M or X for each other, since they take effect in entry order (R213, R229); all for RECAST
(R202). Else the slots of a context go on beside each other (R37, R87). -/
def Queued.behind (q r : Queued) : Bool :=
  isRecast r.syl.instr ||
    (q.ordered && r.ordered &&
      (isAcquire r.syl.instr || isRelease q.syl.instr || (q.slot ≠ .k && r.slot ≠ .k && (q.onEngine || r.onEngine))))

/-- X syllables and releases wait for the older exact-landing writes of other slots (R213, R252). -/
def Queued.orders (q : Queued) : Bool := q.slot = .x || isRelease q.syl.instr

/-- VLEND and VRECL. -/
def isLend : Instr → Bool
  | .vlend _ _ => true
  | .vrecl _ => true
  | _ => false

/-- Slots to which the lend state of a bank matters (R164). -/
def slotLends (sl : Slot) : Bool := sl = .v || sl = .t || sl = .ma || sl = .mb

/-- A syllable of a dispatched bundle may issue: its slot has issued everything older (R36), the markers of sync bundles hold (R38), a
branch, END and ERET come last (R159, R354, R357), a fault not yet detected holds it back no more than R359 lets it, the syllables at lower
entries that it stands behind have issued (R202, R213, R229, R252, R253), and the lend state is the one of its entry (R164, R183). -/
def Ctx.mayIssue (x : Ctx) (d : Disp) (q : Queued) : Bool :=
  let i := q.syl.instr
  let older := x.queue.filter fun o => o.entry < d.entry
  let left := older.flatMap Disp.left
  let rest := d.left.filter fun r => r.slot ≠ q.slot
  (left.all fun r => r.slot ≠ q.slot) &&
    (older.all fun o => o.left.isEmpty || !(x.queue.any fun b => b.sync && o.entry < b.entry && b.entry ≤ d.entry)) &&
    (older.all fun o => !o.sync || o.left.all fun r => r.blk.isSome) &&
    (!isBranch i || (left.isEmpty && rest.all fun r => isLast r.syl.instr)) &&
    (x.late.all fun k => d.entry < k.1) &&
    (!isLast i || (left.isEmpty && rest.isEmpty && x.late.isEmpty)) &&
    (left.all fun r => !q.behind r) &&
    (!q.orders || x.stores.all fun r => r.landed || d.entry ≤ r.land || r.slot = q.slot) &&
    (!isLend i || ((left.all fun r => !slotLends r.slot) && rest.all fun r => r.slot ≠ .t)) &&
    (!slotLends q.slot || left.all fun r => !isLend r.syl.instr)

/-- The syllables of a context that may issue and do not wait, in the order of their entries and slots. -/
def Ctx.candidates (x : Ctx) : List (Disp × Queued) :=
  x.queue.flatMap fun d => (d.left.filter fun q => q.blk.isNone && x.mayIssue d q).map fun q => (d, q)

/-- The syllables that may issue while a fault waits: those below its entry; none once an imprecise fault is detected (R353, R359). -/
def Ctx.issuable (x : Ctx) : List (Disp × Queued) :=
  match x.task.bind (·.fault) with
  | none => x.candidates
  | some f => if f.imprec then [] else x.candidates.filter fun w => w.1.entry < f.fent

/-- The X or K slot of a context stalls while one of its moves or messages finds no room in its core's replay queue (R276). -/
def State.slotStuck (s : State) (c : Nat) (sl : Slot) : Bool :=
  (sl = .x && s.moves.any fun m => m.ctx = c && !m.vwrite.isEmpty && s.full m) ||
    (sl = .k && s.msends.any fun m => m.ctx = c && !m.vwrite.isEmpty && s.msendFull m)

/-- The syllables of a context that may issue now. -/
def State.issuable (s : State) (c : Nat) : List (Disp × Queued) := (s.ctx c).issuable.filter fun w => !s.slotStuck c w.2.slot

/-- A context with a decoded bundle: it takes the next entry, places its marker, and queues what its slots have still to issue; a
nullified entry issues nothing (R35, R38, R65, R147, R353). -/
def Ctx.take (x : Ctx) (l : List Queued) : Ctx :=
  let e := x.entry
  let mine := if x.nulls.contains e then [] else l.filter fun q => Sparse.get 0 x.front q.slot.num ≤ e
  let sync := l.any fun q => q.syl.sync
  { (x.advance l.length).prune with
    queue := x.prune.queue ++ [⟨e, x.pc, l.length, sync, x.redirects, x.nulls, x.loop, mine⟩]
    syncs := if sync then x.syncs ++ [e] else x.syncs }

/-- The guard that a syllable of a slot has, with bit 4 negating (R67, R81-R86): 4 bits at [20:17], 5 bits at [20:16] for the scalar
operations that have one; 0 is none. -/
def guardOf (sl : Slot) (i : Instr) : BitVec 5 :=
  match encode i with
  | none => 0
  | some w =>
    let op := (w.extractLsb' 21 6).toNat
    match sl with
    | .v | .ma | .mb | .t | .x => (w.extractLsb' 17 4).setWidth 5
    | .s0 | .s1 => if op ≤ 0x13 || (0x15 ≤ op && op ≤ 0x18) || op = 0x38 || op = 0x3A then w.extractLsb' 16 5 else 0
    | .k => 0

/-- The predicate that a syllable's guard or mask names, as its slot sees it. -/
def State.seePred (s : State) (g : BitVec 5) : Word :=
  if g.setWidth 4 = (0 : BitVec 4) then BitVec.allOnes 64
  else ((s.cx.preg (g.setWidth 4 : BitVec 4).toNat).read s.cx.syncs s.cur.slot s.cur.entry s.free).1

/-- The lanes in which a V syllable acts: those of its mask; VSEL acts in all; VCMUL and the fx64 rows of VCVT act in the lanes of the
active pairs (R162, R163, R169, R171, R176). -/
def State.lanesOf (s : State) (i : Instr) : Word :=
  let m := s.seePred (guardOf .v i)
  match i with
  | .vsel _ _ _ _ => BitVec.allOnes 64
  | .vcmul _ _ _ _ => pairMask m
  | .vcvt _ _ _ c => if 0x12 ≤ c.toNat then pairMask m else m
  | _ => m

/-- Bit 24 of DET0: more than one place fails (R366). -/
def manyBit (b : Bool) : Nat := if b then 2 ^ 24 else 0

/-- The details of a residue check that fails on the syllable in issue (R165, R186, R247, R360, R366): none when the syllable has nothing
there to check, since its guard is false, its lanes are masked, or the place is none of its unit's. -/
def State.residueHits (s : State) (i : Instr) (r : Residue) : Option (Word × Word) :=
  let g := guardOf s.cur.slot i
  let runs := (s.seePred g).getLsbD 0 != g.getLsbD 4
  let place (rows cols : Nat) (n : Nat) : Option (Word × Word) :=
    if runs && r.row < rows && r.col < cols then some (BitVec.ofNat 64 n, 0) else none
  match s.cur.slot with
  | .k => none
  | .v =>
    let l := r.lanes &&& s.lanesOf i
    match (List.range 64).filter fun k => l.getLsbD k with
    | [] => none
    | k :: ks => some (BitVec.ofNat 64 (k + manyBit (!ks.isEmpty)), l)
  | .t =>
    match i with
    | .trin _ _ | .trpop _ _ =>
      let u := s.cx.tu.land s.cur.entry
      place u.rows u.width (r.row * 256 + r.col + manyBit r.many)
    | _ => none
  | .ma | .mb =>
    match i with
    | .mma _ _ _ _ _ _ _ _ _ | .mmav _ _ _ _ _ _ _ _ _ | .mfill _ _ _ _ _ | .mdrain _ _ _ _ _ _ _ =>
      place 64 64 (r.row * 256 + r.col + manyBit r.many)
    | .mcma _ _ _ _ _ _ _ _ =>
      place 32 32 (r.row * 256 + r.col + (if r.imag then 2 ^ 16 else 0) + (if r.lo then 2 ^ 17 else 0) + manyBit r.many)
    | _ => none
  | _ => if runs then some (0, 0) else none

/-- A syllable issues, once what is due has landed (R39), unless a residue check strikes it; in supervisor mode the struck syllable is
replayed (R360). -/
def State.issueSyl (s : State) (c : Nat) (d : Disp) (q : Queued) : Plan :=
  let t := (s.landed c).atSyl c d q
  let i := q.syl.instr
  match t.residues.find? fun r => r.ctx = c && r.slot = q.slot && (t.residueHits i r).isSome with
  | none => .run i t
  | some r =>
    let u := { t with residues := t.residues.filter fun o => o ≠ r }
    match t.residueHits i r with
    | none => .run i t
    | some e => if t.cx.supervisor then .next u else .next (u.raise (flt 0x0D 0 e.1 e.2))

/-- The detection of a context's first fault not yet detected (R359). -/
def State.lateFaultOf (s : State) (c : Nat) : Option Instr :=
  (s.ctx c).late.head?.map fun (k : Nat × FaultInfo) => .impreciseFault c k.2.cls k.2.sub k.2.det0

/-- Dispatch of a context goes on (R35, R66, R146, R153, R243, R305, R352); where nothing more may go before a fault is detected, it is
(R359). -/
def State.dispatch (s : State) (c : Nat) : Plan :=
  match s.nextDisp c with
  | .hold =>
    match s.lateFaultOf c with
    | some i => .run i s
    | none => .next { s.modCtx c fun x => x.free .stall with evTurn := true }
  | .redirect => .run (.redirect c) s
  | .loopEnd _ => .run (.loopEnd c) s
  | .loopPass _ => .run (.loopPass c) s
  | .page p => .next (s.withPages c [(p, false)] fun s => s)
  | .fault f => .next ((s.noteFault c (s.atDispatch c f.cls f.sub 0 0 0 f.det0)).deliver c)
  | .undefined _ => .run (.undefinedEncodingTrap c) s
  | .noMnop _ => .run (.noMnop c) s
  | .overrun => .run (.budgetOverrun c) s
  | .bundle l =>
    let y := (s.ctx c).take l
    match y.candidates.filter fun w => !s.slotStuck c w.2.slot with
    | w :: _ => (s.setCtx c y).issueSyl c w.1 w.2
    | [] => .next { s.setCtx c y with evTurn := true }

/-- What a context that can go on does next: the oldest syllable that may issue does; else what is due lands, a fault is delivered, a
pre-emption takes effect, or dispatch goes on. A syllable that stalls is tried again when dispatch must hold. -/
def State.turnOf (s : State) (c : Nat) : Plan :=
  let x := s.ctx c
  match s.issuable c with
  | w :: _ => s.issueSyl c w.1 w.2
  | [] =>
    if x.landingDue then .run (.landing c) s
    else if x.faulted then .next { (s.modCtx c fun x => x.free .stall).deliver c with evTurn := true }
    else if x.preemptReq && s.preemptPoint c then .run (.preemptionRequest c) s
    else s.dispatch c

/-- The next ready context of a core in the order of R33, after a given one and last that one. -/
def State.nextReady (s : State) (c : Nat) : Option Nat :=
  ([1, 2, 3, 4].map fun i => 4 * coreOf c + (c + i) % 4).find? s.ready

/-- Dispatch of a core moves to a context. -/
def State.switchTo (s : State) (c : Nat) : State :=
  { s.modCore (coreOf c) fun q => { q with running := c % 4, seek := false } with evTurn := true }

/-- A context other than the running one has syllables in its slot queues that may issue, or a fault to deliver. -/
def State.lingers (s : State) (c : Nat) : Bool := (s.ctx c).faulted && s.ready c || s.holds c && !(s.issuable c).isEmpty

/-- A core's turn: what other contexts have left in their slot queues, then its running context, or after a block event the next ready
one in the order of R33. -/
def State.coreTurn (s : State) (q : Nat) : Plan :=
  let c := 4 * q + (s.core q).running
  match ([1, 2, 3].map fun i => 4 * q + (c + i) % 4).find? s.lingers with
  | some e => s.turnOf e
  | none =>
    if s.ready c && !(s.core q).seek then s.turnOf c
    else if s.lingers c then s.turnOf c
    else
      match s.nextReady c with
      | some d => (s.switchTo d).turnOf d
      | none => .next { s with evTurn := true }

/-- The cores with a context that can go on, those after the core in focus first. -/
def State.readyCores (s : State) : List Nat :=
  let l := ((s.ctxs.filter fun x => s.ready x.1 || s.lingers x.1).map fun x => coreOf x.1).eraseDups
  (l.filter fun q => s.focus < q) ++ l.filter fun q => q ≤ s.focus

/-- The next syllable of a slot of a context, with its bundle. -/
def Ctx.headOf (x : Ctx) (sl : Slot) : Option (Disp × Queued) :=
  (x.nextOf sl).bind fun d => (d.left.find? fun q => q.slot = sl).map fun q => (d, q)

/-- A slot of a context issues, in an order of the schedule's choice among those that R36 to R38 allow; an interlocked access that
waits completes (R132). -/
def State.issueSlot (s : State) (c : Nat) (sl : Slot) : Plan :=
  match (s.ctx c).headOf sl with
  | none => .next s
  | some (d, q) =>
    if q.blk = some .interlocked then .next (interlockedScalar q ((s.landed c).atSyl c d q))
    else if (q.blk.isNone || q.blk = some .stall) && s.holds c && !(s.ctx c).faulted && (s.ctx c).mayIssue d q && !s.slotStuck c sl then s.issueSyl c d q
    else .next s

/-- Dispatch of the running context of a core goes ahead of slots that lag (R35, R37). -/
def State.dispatchAhead (s : State) (c : Nat) : Plan :=
  match s.nextDisp c with
  | .bundle l => if (s.core (coreOf c)).running = c % 4 && !(s.core (coreOf c)).seek then .next (s.setCtx c ((s.ctx c).take l)) else .next s
  | _ => .next s

/-- An M, T or X syllable comes to issue and finds its engine's command queue full (R33). -/
def State.queueFull (s : State) (c : Nat) (sl : Slot) : Plan :=
  match (s.ctx c).headOf sl with
  | none => .next s
  | some (d, q) =>
    if (sl = .ma || sl = .mb || sl = .t || sl = .x) && q.blk.isNone && s.holds c && !(s.ctx c).faulted && (s.ctx c).mayIssue d q then
      .next (((s.landed c).atSyl c d q).block .engine)
    else .next s

/-- A context waits for a translation. -/
def State.waitsAts (s : State) (c : Nat) : Bool := s.dies.any fun d => d.2.ats.any fun r => r.ctxs.contains c

/-- A wake of a context changes what it waits for. -/
def State.woken (s t : State) (c : Nat) : Bool := (t.ctx c).queue ≠ (s.ctx c).queue

/-- The wake that is due for a context, if any (R33, R132, R199, R211, R259, R266, R267, R345). -/
def State.wakeDue (s : State) (c : Nat) : Option Instr :=
  let try' (i : Instr) (r : Out) : Option Instr := match r with
    | .next t => if s.woken t c then some i else none
    | _ => none
  let when' (b : List Block) (i : Instr) (r : State → Out) : Option Instr := if b.any (s.ctx c).waitsFor then try' i (r s) else none
  (when' [.tagged, .broken, .unheard] (.taggedWake c) (execTaggedWake c)) <|>
  (when' [.twait] (.twaitWake c) (execTwaitWake c)) <|>
  (when' [.waitb, .broken] (.waitbWake c) (execWaitbWake c)) <|>
  (when' [.join, .broken] (.joinWake c) (execJoinWake c)) <|>
  (when' [.interlocked] (.interlockedCompletion c) (execInterlockedCompletion c)) <|>
  (when' [.reclaim] (.reclaimWake c) (execReclaimWake c)) <|>
  (when' [.recast] (.orderingPoint c) (execOrderingPoint c))

/-- A context that goes on with its prelude or its restore (R303, R371). -/
def State.startDue (s : State) (c : Nat) : Option Instr :=
  let x := s.ctx c
  match x.task with
  | none => none
  | some t =>
    if t.dead || s.waitsAts c then none
    else if x.restore.isSome then some (.resume t.uid c)
    else if t.prelude.isSome && t.fault.isNone then
      let r := s.startPrelude c
      if ((r.ctx c).task.bind (·.prelude)).isNone || r.waitsAts c then some (.taskStart c) else none
    else none

/-- The pre-emption that is due for a context (R317, R371). -/
def State.preemptDue (s : State) (c : Nat) : Bool :=
  let x := s.ctx c
  x.preemptReq && s.preemptPoint c && !s.waitsAts c && !(x.speculative && s.moves.any fun m => m.ctx = c && m.uid = x.uid)

/-- The speculative task that a core pre-empts for a startable record (R317): lowest LK, then highest SEQ. -/
def State.evictee (s : State) (q : Nat) : Option Nat :=
  let held := (List.range 4).map (4 * q + ·)
  if held.all (fun c => (s.ctx c).task.isSome) && (s.pickLocal q).isSome then
    let key (c : Nat) : Nat := (s.ctx c).task.elim 0 fun t => t.trec.lk.toNat * 2 ^ 48 + (2 ^ 48 - 1 - t.trec.seq.toNat)
    (sortBy key (held.filter fun c => (s.ctx c).speculative && !(s.ctx c).task.any (·.dead))).head?
  else none

/-- The cores whose sequencers have something to choose: those of clusters with a queued record. -/
def State.busyCores (s : State) : List Nat :=
  let g := ((s.cores.filter fun q => !q.2.deque.isEmpty).map fun q => clusterOfCore q.1).eraseDups
  g.flatMap fun k => (List.range 8).map (8 * k + ·)

/-- A queued record starts in a free context (R299). -/
def State.startFree (s : State) : Option Instr :=
  s.busyCores.findSome? fun q => match s.pick q with
    | some (.queued _ _) => (((List.range 4).map (4 * q + ·)).find? s.contextFree).map Instr.taskStart
    | _ => none

/-- A steal that R300 lets a core make. -/
def State.mayRob (s : State) (t v : Nat) : Bool :=
  t ≠ v && s.probes t && !(s.haul t v).isEmpty && (clusterOfCore t = clusterOfCore v || !s.lootIn t true)

/-- A steal for a core that some record of its die can start on (R300, R307): one that takes such a record, if there is one. -/
def State.stealDue (s : State) : Option Instr :=
  let victims := (s.cores.filter fun q => !q.2.deque.isEmpty).map Prod.fst
  let rob (test : Nat → Nat → Bool) : Option Instr := victims.findSome? fun v =>
    (((List.range 64).map (64 * dieOfCore v + ·)).find? fun t => s.mayRob t v && test t v).map fun t => Instr.steal t v
  rob (fun t v => (s.haul t v).any fun r => s.startable t r.uid r.trec) <|> rob fun t _ => s.lootStarts t

/-- A saved task that can take a context (R371). -/
def State.resumeDue (s : State) : Option Instr :=
  s.saved.findSome? fun t => t.ctx.task.bind fun k =>
    let cs := if t.moved then (List.range 32).map (32 * clusterOf t.home + ·) else [t.home]
    (cs.find? (s.canResume t k)).map fun c => Instr.resume k.uid c

/-- A launch that can go on towards its completion (R394). -/
def State.launchDue (s : State) (l : Launch) : Bool :=
  l.words.all s.wordDone && !(s.fn l.fn).placing.any (fun p => p.1 = l.id) && !s.launchRuns l.id &&
    !((s.launchConds l.id).any fun e => s.dieResolving e.1) &&
    (!(s.launchConds l.id).isEmpty ||
      (!s.launchBusy l.id && !(s.dies.any fun d => d.2.ats.any fun r => r.fns.contains (17 + l.id)) && (l.mute || (s.fn l.fn).slotFree)))

/-- The row of the opcode table that a command is (R386). -/
def commandInstr (fn : Nat) (c : Command) : Instr :=
  match c.op.toNat with
  | 1 => .copyin fn c
  | 2 => .copyout fn c
  | 3 => .launch fn c
  | 4 => .alloc fn c
  | 5 => .freeCommand fn c
  | 6 => .harvestCommand fn c
  | 7 => .dlog fn c
  | 8 => .exportCommand fn c
  | 9 => .redwin fn c
  | 10 => .nopCommand fn c
  | 11 => .teardown fn c
  | 12 => .attest fn c
  | 16 => .assign fn c
  | 17 => .ctxcfg fn c
  | 18 => .watermark fn c
  | 19 => .fabid fn c
  | 20 => .fkey fn c
  | 21 => .fwload fn c
  | _ => .malformedCommand fn c

/-- What a command that can wait does now. -/
def commandTrial (fn : Nat) (c : Command) (s : State) : Out :=
  match c.op.toNat with
  | 1 => execCopyin fn c s
  | 2 => execCopyout fn c s
  | 3 => execLaunch fn c s
  | 4 => execAlloc fn c s
  | 12 => execAttest fn c s
  | 21 => execFwload fn c s
  | _ => .next s

/-- The mailbox waits for a translation of a function's command. -/
def State.mailWaits (s : State) (fn : Nat) : Bool := s.dies.any fun d => d.2.ats.any fun r => r.fns.contains fn

/-- A waiting command goes on: it completes, places a root or asks for a page. -/
def State.commandMoves (s : State) (fn : Nat) (c : Command) : Bool :=
  match commandTrial fn c s with
  | .next t => (t.fn fn).waiting.isNone || (t.fn fn).placing ≠ (s.fn fn).placing || t.mailWaits fn
  | _ => false

/-- The mailbox's next command of a function (R387). -/
def State.commandDue (s : State) (fn : Nat) : Option Instr :=
  match (s.fn fn).waiting with
  | some c =>
    if (s.flagReady fn).isSome then some (.flagWordAcquire fn)
    else if s.mailWaits fn || !s.commandMoves fn c then none
    else some (commandInstr fn c)
  | none => if s.hasCommand fn then some (commandInstr fn (s.ringCommand fn)) else none

/-- A RESOLVE whose context has left it, or runs its handler, and whose commits can go on (R319, R320). -/
def State.orphan (s : State) : Option ResolveSt :=
  s.resolves.find? fun r => s.resolving r.ctx ≠ some r &&
    (let t := State.commitAll r.tasks s
     let left (s : State) : List (Option (List Effect)) := r.tasks.map fun u => (s.place u).map Place.effects
     t.2.isEmpty || left t.1 ≠ left s)

/-- A vector whose message is due (R391). -/
def State.vecNow (s : State) : Option Instr :=
  (s.fns.map Prod.fst).findSome? fun f => ((s.fn f).vecs.find? fun v => s.vecDue f v.1).map fun v => .msiXMessage f v.1

/-- An event of the device that is due, in one order of many (log 6). What waits for another device's answer waits for the schedule. -/
def State.autoEvent (s : State) : Option Plan :=
  let go (i : Instr) : Plan := .run i s
  let ctxs := s.ctxs.map Prod.fst
  let fns := s.fns.map Prod.fst
  ((s.moves.find? fun m => s.moveReady m && !s.awaits m).map fun m => go (.moveCompletion m.id 0 0)) <|>
  ((s.msends.find? fun m => s.msendReady m && !(m.sent && s.farMsend m)).map fun m => go (.msendDelivery m.id)) <|>
  ((s.eoss.find? fun m => s.eosReady m && !(m.sent && s.farEos m)).map fun m => go (.eosArrival m.id)) <|>
  ((s.requests.find? s.reqReady).map fun h => .next (s.answerReq h)) <|>
  (s.lateAsk.map .next) <|>
  ((ctxs.findSome? fun c => if (s.ctx c).blocked then s.lateFaultOf c else none).map go) <|>
  ((ctxs.findSome? s.wakeDue).map go) <|>
  ((ctxs.find? fun c => (s.ctx c).waitsFor .engine).map fun c => .next (s.modCtx c fun x => x.free .engine)) <|>
  (s.orphan.map fun r => .next (s.advance r)) <|>
  ((ctxs.findSome? s.startDue).map go) <|>
  ([0, 1].findSome? fun d => (s.returning d).map fun slot => go (.returnToPool d slot)) <|>
  (([0, 1].find? s.watermarkDue).map fun d => go (.watermarkReclaim d)) <|>
  ((ctxs.find? s.preemptDue).map fun c => go (.preemptionRequest c)) <|>
  ((s.cores.findSome? fun q => (s.evictee q.1).bind fun c => if (s.ctx c).preemptReq then none else some c).map fun c => go (.preemptionRequest c)) <|>
  (s.startFree.map go) <|>
  (s.stealDue.map go) <|>
  (s.resumeDue.map go) <|>
  ((s.launches.find? s.launchDue).map fun l => go (.launchCompletion l.id)) <|>
  (s.vecNow.map go) <|>
  ((fns.findSome? s.commandDue).map go)

/-- What the device does when the schedule names nothing: at a boundary an event that is due, else the context in focus. -/
def State.auto (s : State) : Plan :=
  if s.evTurn then
    match { s with evTurn := false }.autoEvent with
    | some p => p
    | none =>
      match s.readyCores with
      | q :: _ => { s with evTurn := false, focus := q }.coreTurn q
      | [] => .next s
  else s.coreTurn s.focus

/-- Ticks after which an armed vector that holds records is due, for each such vector (R391). -/
def State.vecTicks (s : State) : List Nat :=
  s.fns.flatMap fun f => f.2.vecs.filterMap fun v =>
    if v.2.arm && v.2.pending ≠ 0 then some (v.2.window.toNat - (s.tick - v.2.oldest).toNat) else none

/-- Ticks of the mailbox counter pass, up to n: none past the first at which a message is due (R391), or past a multiple of 2^19, which
starts a sweep (R384, R402). What is left of them stays in the schedule. -/
def State.passTicks (s : State) (n : Nat) : Plan :=
  match s.vecNow with
  | some i => .run i { s with sched := .ticks n :: s.sched }
  | none =>
    let k := s.vecTicks.foldl min (min n (2 ^ 19 - s.tick.toNat % 2 ^ 19))
    let t := { s with tick := s.tick + BitVec.ofNat 64 k, sched := if k < n then .ticks (n - k) :: s.sched else s.sched, evTurn := true }
    if k ≠ 0 && (s.tick.toNat + k) % 2 ^ 19 = 0 then .run .dirtyLogSweep t else .next t

/-- The host writes its own memory, or a function's I/O space. -/
def State.hostWrite (s : State) (pa : Nat) (bytes : List Byte) : State :=
  if pa + bytes.length ≤ 2 ^ 64 || (ioPA 0 0 ≤ pa && pa + bytes.length ≤ ioPA functions 0) then
    { s with mem := writeBytes s.mem pa bytes, evTurn := true }
  else s

/-- What the next step does: the schedule's choice, if it names one. A syllable is no choice of the schedule's. -/
def plan (s : State) : Plan :=
  match s.sched with
  | [] => s.auto
  | k :: rest =>
    let t := { s with sched := rest }
    match k with
    | .event i => if (encode i).isNone then .run i t else .next t
    | .turn q => { t with focus := q, evTurn := false }.coreTurn q
    | .issue c sl => t.issueSlot c sl
    | .dispatch c => t.dispatchAhead c
    | .full c sl => t.queueFull c sl
    | .ticks n => t.passTicks n
    | .residue r => .next { t with residues := t.residues ++ [r] }
    | .strike k => .next { t with strikes := t.strikes ++ [k] }
    | .lag c => .next { t with lags := t.lags ++ [c] }
    | .host pa bytes => .next (t.hostWrite pa bytes)

end Sys2Proof.Machine
end

