-- ==== Sys2Proof/Machine/Step.lean ====
section
/-! DEFINITION. One step of the device, and a state whose next step runs a given syllable. -/

namespace Sys2Proof.Machine

/-- One step: what the schedule or the device does next (log 6). -/
def step (s : State) : Host.Outcome State Fault Refusal :=
  match plan s with
  | .run i t => exec i t
  | .next t => .next t

/-- A task record with an entry, the smallest footprint and the largest budget. -/
def probeRec (pc : Word) : TaskRec :=
  { entry := pc, arg1 := 0, arg2 := 0, xblk := 0, join := 0, sem1 := 0, sem0 := 0, pend := false, len1 := 0, len0 := 1, foff := 0, seq := 0
    lk := 0x8000, conds := [], depth := 0, budget := 65535, pin := false, die := 0, cluster := 0, core := 0 }

/-- A task as a launch would place it. -/
def probeTask (uid : Nat) (pc : Word) : Task :=
  { trec := probeRec pc, uid := uid, launch := 0, pasid := 0, parent := none, produce := [], regBars := [], extra := 0, effects := []
    fault := none, dead := false, prelude := none }

/-- The context in focus with a task that stands before its next bundle. -/
def Ctx.probe (x : Ctx) (uid : Nat) : Ctx :=
  { x with
    task := some (x.task.getD (probeTask uid x.pc))
    queue := []
    front := []
    redirects := []
    nulls := []
    loop := none
    pages := []
    preemptReq := false
    restore := none }

/-- s with a syllable where the context in focus fetches its next bundle: a launch's work (log 6), a task in the context and its page
of code in host memory with a translation. The syllable stands alone in its bundle, with bit 31 set (R62). -/
def State.withFetchWord (s : State) (nbits w : Nat) : State :=
  let q := s.focus
  let c := 4 * q + (s.core q).running
  let x := (s.ctx c).probe s.nextId
  let pc := x.pc.toNat
  let page : TEntry := ⟨x.pasid, 0, pc / 4096, pc / 4096 * 4096, true, true, false⟩
  let word := w % 2 ^ min nbits 32 % 2 ^ 31 + 2 ^ 31
  let t : State := { s with
    sched := []
    residues := []
    evTurn := false
    nextId := s.nextId + 1
    tasks := Sparse.put s.tasks s.nextId ⟨none, false, 0⟩
    mem := writeNat s.mem pc 4 word }
  (t.setCtx c x).modCore q fun k => { k with tlb := page :: k.tlb }

end Sys2Proof.Machine
end

