-- ==== Sys2Proof/Safety.lean ====
section
/-! DEFINITION. What counts as a safe run, and the terms that claims use: registers with nothing outstanding, what a syllable leaves
unchanged, and the invariant of the machine. -/

namespace Sys2Proof

/-- n steps from a state all answer a next state. A trap, a kill and an imprecise fault of the spec are next states (R352-R360);
what stops a run is a Fault or a Refusal of this model. -/
def safeRun (n : Nat) (s : Machine.State) : Prop := ∃ t, core.run n s = .next t

/-- Every run from a state is safe, however long. -/
def safe (s : Machine.State) : Prop := ∀ n, safeRun n s

end Sys2Proof

namespace Sys2Proof.Machine

/-- The scalar register that a field names reads v, with nothing outstanding to it (R53: s0 reads as zero). -/
def State.hasS (s : State) (r : BitVec 5) (v : Word) : Prop :=
  if r = 0 then v = 0 else s.cx.sreg r.toNat = Cell.of v

/-- The predicate that a field names reads v, with nothing outstanding to it (R53: p0 reads as all ones). -/
def State.hasP (s : State) (r : BitVec 4) (v : Word) : Prop :=
  if r = 0 then v = BitVec.allOnes 64 else s.cx.preg r.toNat = Cell.of v

/-- The vector register that a field names holds v, nothing is outstanding to it, and its bank is not lent (R54). -/
def State.hasV (s : State) (r : BitVec 5) (v : VReg) : Prop :=
  (s.cx.bank (r.toNat / 8)).at s.cur.entry = none ∧ s.cx.vreg r.toNat = Cell.of v

/-- The bank of a vector register is not lent (R54). -/
def State.openV (s : State) (r : BitVec 5) : Prop := (s.cx.bank (r.toNat / 8)).at s.cur.entry = none

/-- A 5-bit guard holds, or does not (R67). -/
def State.guardIs (s : State) (g : BitVec 5) (b : Bool) : Prop :=
  ∃ v, s.hasP (g.setWidth 4) v ∧ (v.getLsbD 0 != g.getLsbD 4) = b

/-- A 4-bit guard holds, or does not (R67). -/
def State.guard4Is (s : State) (g : BitVec 4) (b : Bool) : Prop := ∃ v, s.hasP g v ∧ v.getLsbD 0 = b

/-- A CSR holds v with nothing outstanding to it. -/
def State.hasCsr (s : State) (n : Nat) (v : Word) : Prop := s.cx.csrCell n = Cell.of v

/-- A scratchpad write that has not landed. -/
def StoreRec.inflight (r : StoreRec) : Option StoreRec := if r.landed then none else some r

/-- The state after an instruction keeps every part of the device but the contexts, memory and the tags, and whether events go first at the
next step (log 6). The free stream may advance. -/
structure KeepsParts (s t : State) : Prop where
  cores    : ∀ q, t.core q = s.core q
  dies     : ∀ d, t.die d = s.die d
  fns      : ∀ n, t.fn n = s.fn n
  moves    : t.moves = s.moves
  sends    : t.msends = s.msends ∧ t.eoss = s.eoss
  waits    : t.recasts = s.recasts ∧ t.resolves = s.resolves ∧ t.requests = s.requests ∧ t.invals = s.invals
  tasks    : t.saved = s.saved ∧ t.ended = s.ended ∧ t.tasks = s.tasks ∧ t.launches = s.launches
  tables   : t.exports = s.exports ∧ t.redwins = s.redwins ∧ t.fkeys = s.fkeys ∧ t.dlogs = s.dlogs
  host     : t.arrivals = s.arrivals ∧ t.clusterFn = s.clusterFn ∧ t.tick = s.tick ∧ t.unlogged = s.unlogged ∧ t.fabId = s.fabId
  firmware : t.recovery = s.recovery ∧ t.flash = s.flash ∧ t.config = s.config ∧ t.running = s.running
  plan     : t.residues = s.residues ∧ t.strikes = s.strikes ∧ t.lags = s.lags ∧ t.sched = s.sched ∧ t.focus = s.focus
  out      : t.out = s.out

/-- The state after an instruction keeps those parts and every context but the one of the syllable in issue. -/
structure KeepsDevice (s t : State) : Prop where
  others : ∀ c, c ≠ s.cur.ctx → t.ctx c = s.ctx c
  parts  : KeepsParts s t

/-- The same where bytes of memory change at once: the records that other contexts keep of their own scratchpad writes, so that their slots see
them by R40 to R44, may note that (log 8). -/
structure KeepsRest (s t : State) : Prop where
  others : ∀ c, c ≠ s.cur.ctx → t.ctx c = { s.ctx c with stores := (t.ctx c).stores } ∧
    (t.ctx c).stores.map StoreRec.inflight = (s.ctx c).stores.map StoreRec.inflight
  parts  : KeepsParts s t

/-- Every byte of memory reads as before. -/
def KeepsMemory (s t : State) : Prop := ∀ a, byteAt t.mem a = byteAt s.mem a

/-- Every tag reads as before. -/
def KeepsTags (s t : State) : Prop := ∀ a, tagAt t.tags a = tagAt s.tags a

/-- The registers and units of the context of the syllable in issue are as before, but for the scalar registers, predicates, vector
registers and CSRs listed. -/
structure KeepsRegs (s t : State) (sd pd vd cd : List Nat) : Prop where
  scalars    : ∀ r, r ∉ sd → (t.ctx s.cur.ctx).sreg r = s.cx.sreg r
  predicates : ∀ r, r ∉ pd → (t.ctx s.cur.ctx).preg r = s.cx.preg r
  vectors    : ∀ r, r ∉ vd → (t.ctx s.cur.ctx).vreg r = s.cx.vreg r
  csrs       : ∀ n, n ∉ cd → (t.ctx s.cur.ctx).csrCell n = s.cx.csrCell n
  task       : (t.ctx s.cur.ctx).task = s.cx.task
  handler    : (t.ctx s.cur.ctx).inHandler = s.cx.inHandler ∧ (t.ctx s.cur.ctx).chkv = s.cx.chkv

/-- The shape registers, lent banks, matrix and transpose state of the context are as before. -/
structure KeepsUnits (s t : State) : Prop where
  shapes   : ∀ r, (t.ctx s.cur.ctx).shapeActive r = s.cx.shapeActive r ∧ (t.ctx s.cur.ctx).shapeShadow r = s.cx.shapeShadow r
  lend     : (t.ctx s.cur.ctx).lend = s.cx.lend
  formats  : (t.ctx s.cur.ctx).fmtA = s.cx.fmtA ∧ (t.ctx s.cur.ctx).fmtB = s.cx.fmtB
  scales   : (t.ctx s.cur.ctx).scaleA = s.cx.scaleA ∧ (t.ctx s.cur.ctx).scaleB = s.cx.scaleB
  turn     : (t.ctx s.cur.ctx).tu = s.cx.tu

/-- The frame of an instruction that works on registers only. -/
structure RegFrame (s t : State) (sd pd vd cd : List Nat) : Prop where
  device : KeepsDevice s t
  memory : KeepsMemory s t
  tags   : KeepsTags s t
  regs   : KeepsRegs s t sd pd vd cd
  units  : KeepsUnits s t
  stores : (t.ctx s.cur.ctx).stores = s.cx.stores

/-- The frame of an instruction that writes memory at once: only the listed bytes change, and the listed scalar registers and CSRs. -/
structure MemFrame (s t : State) (bytes sd cd : List Nat) : Prop where
  device : KeepsRest s t
  memory : ∀ a, a ∉ bytes → byteAt t.mem a = byteAt s.mem a
  regs   : KeepsRegs s t sd [] [] cd
  units  : KeepsUnits s t
  stores : (t.ctx s.cur.ctx).stores = s.cx.stores

/-- The invariant of the machine: memory and the tags have their canonical forms, and only words of the three scratchpad levels carry a tag (R61). -/
structure State.Canonical (s : State) : Prop where
  memory : memoryWf s.mem = true
  tags   : Sparse.wf tagEmpty s.tags = true
  stores : ∀ e ∈ s.tags, inStore (8 * e.1) = true

/-- A scalar register has a result v issued to it, which lands lat entries on; s0 ignores it (R39, R53). -/
def WritesS (s t : State) (d : BitVec 5) (lat : Nat) (v : Word) : Prop :=
  if d = 0 then (t.ctx s.cur.ctx).sreg 0 = s.cx.sreg 0
  else (t.ctx s.cur.ctx).sreg d.toNat =
    (s.cx.sreg d.toNat).push ⟨s.cur.slot, s.cur.entry, lat, s.cur.entry + lat, false, BitVec.allOnes 64, v⟩

/-- A predicate has a result issued to it; p0 ignores it (R39, R53). -/
def WritesP (s t : State) (d : BitVec 4) (lat : Nat) (v : Word) : Prop :=
  if d = 0 then (t.ctx s.cur.ctx).preg 0 = s.cx.preg 0
  else (t.ctx s.cur.ctx).preg d.toNat =
    (s.cx.preg d.toNat).push ⟨s.cur.slot, s.cur.entry, lat, s.cur.entry + lat, false, BitVec.allOnes 64, v⟩

/-- The lanes of a mask have a result issued to a vector register (R39, R163). -/
def WritesV (s t : State) (d : BitVec 5) (lat : Nat) (lanes v : VReg) : Prop :=
  (t.ctx s.cur.ctx).vreg d.toNat =
    (s.cx.vreg d.toNat).push ⟨s.cur.slot, s.cur.entry, lat, s.cur.entry + lat, false, lanes, v⟩

/-- The syllable in issue has issued, and nothing else of its context's place in the program has changed: its slot's frontier passes its
entry, it leaves its slot's queue, and dispatch stands where it stood (R35, R353). -/
def Advances (s t : State) : Prop :=
  let x := (s.cx.issued s.cur.entry s.cur.slot).prune
  let y := t.ctx s.cur.ctx
  y.front = x.front ∧ y.queue = x.queue ∧ y.entry = s.cx.entry ∧ y.pc = s.cx.pc ∧ y.redirects = s.cx.redirects ∧ y.nulls = s.cx.nulls ∧
    y.loop = s.cx.loop ∧ y.syncs = s.cx.syncs ∧ y.late = s.cx.late

/-- An instruction completes: it answers a next state in which its scalar destination has v issued to it within lat, its syllable has
issued, and everything else of the machine is as before. -/
def IssuesS (i : Instr) (s : State) (d : BitVec 5) (lat : Nat) (v : Word) : Prop :=
  ∃ t, exec i s = .next t ∧ WritesS s t d lat v ∧ Advances s t ∧ RegFrame s t [d.toNat] [] [] []

/-- The same with a predicate destination. -/
def IssuesP (i : Instr) (s : State) (d : BitVec 4) (lat : Nat) (v : Word) : Prop :=
  ∃ t, exec i s = .next t ∧ WritesP s t d lat v ∧ Advances s t ∧ RegFrame s t [] [d.toNat] [] []

end Sys2Proof.Machine
end

