-- ==== Sys2Proof/Certificates/Slice0/Obligations.lean ====
section
/-! DEFINITION. The statements for the provers. -/

namespace Sys2Proof.Machine

/-! The results of the scalar operations, written from R121 to R130 over numbers, apart from the meanings' own definitions. -/

/-- The results of R121 and R122 at a width. -/
def specAdd (n : Nat) (x y : BitVec n) : BitVec n := BitVec.ofNat n (x.toNat + y.toNat)
def specSub (n : Nat) (x y : BitVec n) : BitVec n := BitVec.ofInt n (x.toInt - y.toInt)
def specAnd (n : Nat) (x y : BitVec n) : BitVec n := BitVec.ofNat n (x.toNat &&& y.toNat)
def specOr (n : Nat) (x y : BitVec n) : BitVec n := BitVec.ofNat n (x.toNat ||| y.toNat)
def specXor (n : Nat) (x y : BitVec n) : BitVec n := BitVec.ofNat n (x.toNat ^^^ y.toNat)
def specAndn (n : Nat) (x y : BitVec n) : BitVec n := BitVec.ofNat n (x.toNat ^^^ (x.toNat &&& y.toNat))
def specShl (n : Nat) (x y : BitVec n) : BitVec n := BitVec.ofNat n (x.toNat * 2 ^ (y.toNat % n))
def specShr (n : Nat) (x y : BitVec n) : BitVec n := BitVec.ofNat n (x.toNat / 2 ^ (y.toNat % n))
def specSar (n : Nat) (x y : BitVec n) : BitVec n := BitVec.ofInt n (x.toInt / 2 ^ (y.toNat % n))
def specMul (n : Nat) (x y : BitVec n) : BitVec n := BitVec.ofInt n (x.toInt * y.toInt)
def specMulh (n : Nat) (x y : BitVec n) : BitVec n := BitVec.ofInt n (x.toInt * y.toInt / 2 ^ n)
def specMulhz (n : Nat) (x y : BitVec n) : BitVec n := BitVec.ofNat n (x.toNat * y.toNat / 2 ^ n)
def specDiv (n : Nat) (x y : BitVec n) : BitVec n := if y.toInt = 0 then BitVec.ofInt n (-1) else BitVec.ofInt n (x.toInt.tdiv y.toInt)
def specDivz (n : Nat) (x y : BitVec n) : BitVec n := if y.toNat = 0 then BitVec.ofInt n (-1) else BitVec.ofNat n (x.toNat / y.toNat)
def specRem (n : Nat) (x y : BitVec n) : BitVec n := if y.toInt = 0 then x else BitVec.ofInt n (x.toInt.tmod y.toInt)
def specRemz (n : Nat) (x y : BitVec n) : BitVec n := if y.toNat = 0 then x else BitVec.ofNat n (x.toNat % y.toNat)
def specMin (n : Nat) (x y : BitVec n) : BitVec n := if x.toInt ≤ y.toInt then x else y
def specMax (n : Nat) (x y : BitVec n) : BitVec n := if x.toInt ≤ y.toInt then y else x
def specMinz (n : Nat) (x y : BitVec n) : BitVec n := if x.toNat ≤ y.toNat then x else y
def specMaxz (n : Nat) (x y : BitVec n) : BitVec n := if x.toNat ≤ y.toNat then y else x
def specClz (n : Nat) (x : BitVec n) : BitVec n := BitVec.ofNat n (n - (if x.toNat = 0 then 0 else Nat.log2 x.toNat + 1))
def specPopc (n : Nat) (x : BitVec n) : BitVec n := BitVec.ofNat n ((List.range n).countP fun i => x.getLsbD i)

/-- A result of 64 bits, or with w = 1 of 32 bits, sign-extended (R120). -/
def atWidth (f : (n : Nat) → BitVec n → BitVec n → BitVec n) (w : BitVec 1) (x y : Word) : Word :=
  if w = 0 then f 64 x y else BitVec.ofInt 64 (f 32 (x.setWidth 32) (y.setWidth 32)).toInt

/-- The two-operand SA instructions with their latency bounds and results (R82, R121, R122). -/
def saTable : List ((BitVec 5 → BitVec 5 → BitVec 5 → BitVec 5 → BitVec 1 → Instr) × Nat × ((n : Nat) → BitVec n → BitVec n → BitVec n)) :=
  [(.add, 1, specAdd), (.sub, 1, specSub), (.and, 1, specAnd), (.or, 1, specOr), (.xor, 1, specXor), (.andn, 1, specAndn),
   (.shl, 1, specShl), (.shr, 1, specShr), (.sar, 1, specSar), (.mul, 3, specMul), (.mulh, 4, specMulh), (.mulhz, 4, specMulhz),
   (.div, 24, specDiv), (.divz, 24, specDivz), (.rem, 24, specRem), (.remz, 24, specRemz), (.min, 1, specMin), (.max, 1, specMax),
   (.minz, 1, specMinz), (.maxz, 1, specMaxz)]

/-- The SI instructions with an 11-bit immediate (R126). -/
def siTable : List ((BitVec 5 → BitVec 5 → BitVec 11 → Instr) × Nat × ((n : Nat) → BitVec n → BitVec n → BitVec n)) :=
  [(.addi, 1, specAdd), (.andi, 1, specAnd), (.ori, 1, specOr), (.xori, 1, specXor), (.muli, 3, specMul)]

/-- The SI instructions with a shift amount (R126). -/
def shTable : List ((BitVec 5 → BitVec 5 → BitVec 6 → Instr) × ((n : Nat) → BitVec n → BitVec n → BitVec n)) :=
  [(.shli, specShl), (.shri, specShr), (.sari, specSar)]

/-- The SL instructions that place 16 bits, with the place (R127). -/
def slTable : List ((BitVec 5 → BitVec 16 → Instr) × Nat) := [(.lih, 16), (.liu, 32), (.lix, 48)]

/-- The comparisons of R70 over numbers: signed values, unsigned values, and whether the operands have a one bit in common. -/
def specCond (c : Nat) (a b : Int) (ua ub : Nat) : Bool :=
  match c with
  | 0 => ua = ub
  | 1 => ua ≠ ub
  | 2 => a < b
  | 3 => b ≤ a
  | 4 => b < a
  | 5 => a ≤ b
  | 6 => ua < ub
  | 7 => ub ≤ ua
  | 8 => ub < ua
  | 9 => ua ≤ ub
  | 10 => ua &&& ub ≠ 0
  | _ => ua &&& ub = 0

/-- A comparison's outcome at 64 bits, or with w = 1 at 32 bits (R128). -/
def specCmp (c w : Nat) (x y : Word) : Bool :=
  if w = 0 then specCond c x.toInt y.toInt x.toNat y.toNat
  else specCond c (x.setWidth 32).toInt (y.setWidth 32).toInt (x.toNat % 2 ^ 32) (y.toNat % 2 ^ 32)

/-- All ones for a true outcome, all zeros for a false one. -/
def outcome (b : Bool) : Word := BitVec.ofInt 64 (if b then -1 else 0)

/-- The operations of SP at one bit (R70). -/
def specLogic (o : Nat) (a b : Bool) : Bool :=
  match o with
  | 0 => a && b
  | 1 => a || b
  | 2 => a != b
  | 3 => a && !b
  | 4 => a || !b
  | 5 => !(a && b)
  | 6 => !(a || b)
  | _ => a == b

/-- The 5-bit guard of an instruction that has one. -/
def guard5Of : Instr → Option (BitVec 5)
  | .add g _ _ _ _ | .sub g _ _ _ _ | .and g _ _ _ _ | .or g _ _ _ _ | .xor g _ _ _ _ | .andn g _ _ _ _ | .shl g _ _ _ _
  | .shr g _ _ _ _ | .sar g _ _ _ _ | .mul g _ _ _ _ | .mulh g _ _ _ _ | .mulhz g _ _ _ _ | .div g _ _ _ _ | .divz g _ _ _ _
  | .rem g _ _ _ _ | .remz g _ _ _ _ | .min g _ _ _ _ | .max g _ _ _ _ | .minz g _ _ _ _ | .maxz g _ _ _ _ | .clz g _ _ _
  | .popc g _ _ _ | .sext g _ _ _ | .zext g _ _ _ | .jr g _ => some g
  | _ => none

/-- The 4-bit guard of an engine instruction that has one. -/
def guard4Of : Instr → Option (BitVec 4)
  | .trin g _ | .trpop g _ | .trcfg g _ _ | .trclr g | .mma g _ _ _ _ _ _ _ _ | .mmav g _ _ _ _ _ _ _ _ | .mcma g _ _ _ _ _ _ _
  | .mzero g _ _ | .mdrain g _ _ _ _ _ _ | .mfill g _ _ _ _ | .mfmt g _ _ _ | .mnop g _ | .tld g _ _ _ _ _ | .tst g _ _ _ _ _
  | .tmov g _ _ _ _ _ | .tmc g _ _ _ _ _ | .tldf g _ _ _ _ _ | .tstf g _ _ _ _ _ | .tacc g _ _ _ _ _ | .sld g _ _ _ _
  | .twait g _ _ | .ttag g _ _ _ | .preq g _ _ _ => some g
  | _ => none

end Sys2Proof.Machine

open Sys2Proof Sys2Proof.Machine

/-- R121, R122: a two-operand scalar instruction whose guard holds answers a next state in which its destination has the result
of the table issued to it, with the bound of the opcode map; nothing else of the machine changes. -/
def Obligations.ScalarOperationsWriteTheirResults : Prop :=
  ∀ e ∈ saTable, ∀ (g d a b : BitVec 5) (w : BitVec 1) (s : State) (x y : Word),
    s.guardIs g true → s.hasS a x → s.hasS b y → IssuesS (e.1 g d a b w) s d e.2.1 (atWidth e.2.2 w x y)

/-- R121, R123, R124: CLZ, POPC, SEXT, ZEXT and SADD write their results; the encodings of SEXT, ZEXT and SADD. -/
def Obligations.ScalarBitOperationsWriteTheirResults : Prop :=
  ∀ (g d a b : BitVec 5) (w : BitVec 1) (sz k : BitVec 2) (s : State) (x y : Word), s.hasS a x → s.hasS b y →
    (s.guardIs g true →
      IssuesS (.clz g d a w) s d 1 (atWidth (fun n u _ => specClz n u) w x 0) ∧
      IssuesS (.popc g d a w) s d 1 (atWidth (fun n u _ => specPopc n u) w x 0) ∧
      IssuesS (.sext g d a sz) s d 1 (BitVec.ofInt 64 (Int.bmod x.toNat (2 ^ (8 * 2 ^ sz.toNat)))) ∧
      IssuesS (.zext g d a sz) s d 1 (BitVec.ofNat 64 (x.toNat % 2 ^ (8 * 2 ^ sz.toNat)))) ∧
    IssuesS (.sadd d a b k) s d 1 (BitVec.ofNat 64 (x.toNat * 2 ^ (k.toNat + 1) + y.toNat)) ∧
    encode (.sadd d a b k) = some (0#3 ++ 0x14#6 ++ d ++ a ++ b ++ k ++ 0#4) ∧
    encode (.sext g d a sz) = some (0#3 ++ 0x17#6 ++ g ++ d ++ a ++ sz ++ 0#4) ∧
    encode (.zext g d a sz) = some (0#3 ++ 0x18#6 ++ g ++ d ++ a ++ sz ++ 0#4)

/-- R126, R127: the instructions with an immediate write their results, and the encodings of the SI instructions. LIH, LIU and LIX place their 16 bits
and keep the others. -/
def Obligations.ImmediatesWriteTheirResults : Prop :=
  ∀ (d a : BitVec 5) (s : State) (x : Word), s.hasS a x →
    (∀ e ∈ siTable, ∀ i : BitVec 11, IssuesS (e.1 d a i) s d e.2.1 (e.2.2 64 x (BitVec.ofInt 64 i.toInt))) ∧
    (∀ e ∈ shTable, ∀ k : BitVec 6, IssuesS (e.1 d a k) s d 1 (e.2 64 x (BitVec.ofNat 64 k.toNat))) ∧
    (∀ i : BitVec 16, IssuesS (.lil d i) s d 1 (BitVec.ofInt 64 i.toInt)) ∧
    (∀ e ∈ slTable, ∀ i : BitVec 16, IssuesS (e.1 a i) s a 1
      (BitVec.ofNat 64 (x.toNat % 2 ^ e.2 + i.toNat * 2 ^ e.2 + x.toNat / 2 ^ (e.2 + 16) * 2 ^ (e.2 + 16)))) ∧
    (∀ e ∈ [(Instr.addi d a, 0x20#6), (Instr.andi d a, 0x21#6), (Instr.ori d a, 0x22#6), (Instr.xori d a, 0x23#6), (Instr.muli d a, 0x27#6)],
      ∀ i : BitVec 11, encode (e.1 i) = some (0#3 ++ e.2 ++ d ++ a ++ i)) ∧
    ∀ e ∈ [(Instr.shli d a, 0x24#6), (Instr.shri d a, 0x25#6), (Instr.sari d a, 0x26#6)],
      ∀ k : BitVec 6, encode (e.1 k) = some (0#3 ++ e.2 ++ d ++ a ++ (0#5 ++ k))

/-- R128 to R130, R125: comparisons write a predicate of all ones or all zeros, with dual = 1 and pd not p0 also the complement to
the next predicate; PLOG works bit by bit; SEL and MOVP move values; and their encodings. -/
def Obligations.PredicateInstructionsWriteTheirResults : Prop :=
  ∀ (d p pa pb : BitVec 4) (a b r : BitVec 5) (c : BitVec 4) (c3 o : BitVec 3) (w : BitVec 1) (im : BitVec 9) (s : State)
    (x y u v : Word), s.hasS a x → s.hasS b y → s.hasP pa u → s.hasP pb v →
    IssuesP (.cmp d c a b 0 w) s d 1 (outcome (specCmp c.toNat w.toNat x y)) ∧
    (d ≠ 15 → ∃ t : State, exec (.cmp d c a b 1 w) s = .next t ∧ WritesP s t d 1 (outcome (specCmp c.toNat w.toNat x y)) ∧
      WritesP s t (d + 1) 1 (outcome (!specCmp c.toNat w.toNat x y)) ∧ Advances s t ∧ RegFrame s t [] [d.toNat, d.toNat + 1] [] []) ∧
    IssuesP (.cmpi d c3 a im) s d 1 (outcome (specCmp c3.toNat 0 x (BitVec.ofInt 64 im.toInt))) ∧
    (∃ z : Word, (∀ i < 64, z.getLsbD i = specLogic o.toNat (u.getLsbD i) (v.getLsbD i)) ∧ IssuesP (.plog d pa pb o) s d 1 z) ∧
    IssuesS (.sel r a b pa) s r 1 (if u.getLsbD 0 then x else y) ∧
    IssuesP (.movp 0 a p) s p 1 x ∧ IssuesS (.movp 1 r pa) s r 1 u ∧
    (∀ dual : BitVec 1, encode (.cmp d c a b dual w) = some (0#3 ++ 0x1A#6 ++ d ++ c ++ a ++ b ++ dual ++ w ++ 0#1)) ∧
    encode (.cmpi d c3 a im) = some (0#3 ++ 0x1B#6 ++ d ++ c3 ++ a ++ im) ∧
    encode (.plog d pa pb o) = some (0#3 ++ 0x1C#6 ++ d ++ pa ++ pb ++ o ++ 0#6) ∧
    encode (.sel r a b pa) = some (0#3 ++ 0x19#6 ++ r ++ a ++ b ++ pa ++ 0#2) ∧
    ∀ dir : BitVec 1, encode (.movp dir a p) = some (0#3 ++ 0x1D#6 ++ dir ++ a ++ p ++ 0#11)

/-- R118: an instruction whose guard does not hold only issues: it performs no access, writes no register, sets no flag and raises
no fault. -/
def Obligations.FalseGuardOnlyRetires : Prop :=
  ∀ (i : Instr) (s : State), (∀ g, guard5Of i = some g → s.guardIs g false) → (∀ g, guard4Of i = some g → s.guard4Is g false) →
    (guard5Of i ≠ none ∨ guard4Of i ≠ none) → ∃ t : State, exec i s = .next t ∧ Advances s t ∧ RegFrame s t [] [] [] []

namespace Sys2Proof.Machine

/-- A read by the syllable in issue waits for a result: one of another slot that R43 lets it see, whose landing entry that slot has not issued. (That a
result of the own slot is as well, where its landing entry lies below the entry in issue and the slot has not issued it, is a form no run reaches.) -/
def State.readHeld (s : State) (k : Write 64) : Prop :=
  s.cx.reach k.slot ≤ k.land ∧ ((k.slot = s.cur.slot ∧ k.land < s.cur.entry) ∨
    (k.slot ≠ s.cur.slot ∧ ∃ b ∈ s.cx.syncs, k.entry < b ∧ b + k.lat ≤ s.cur.entry))

end Sys2Proof.Machine

/-- R42, R43, R40, R38, R47: a scalar read sees a result k of its register in the producer's own slot from entry e + L + 1 on, in
another slot from L entries after a sync bundle on; a read at a lower entry, at the entry itself in the producer's slot, or in a sync bundle at
that entry gives the old value; any other read gives the old value or the new one. (That the syllables of a sync bundle read before any of them writes is the
model's reading, log 8.) A read that sees a result of another slot stalls until that slot has issued the result's landing entry. With CTL.PEND set, a read of a result of an earlier bundle that is outstanding, and that no cross-slot hold covers, raises
the pending-read trap. -/
def Obligations.ReadsSeeResultsByTheVisibilityRules : Prop :=
  (∀ (s : State) (d a : BitVec 5) (v ctl : Word) (k : Write 64), a ≠ 0 → s.cx.sreg a.toNat = (Cell.of v).push k → k.exact = false →
    k.land = k.entry + k.lat → s.hasCsr csrCTL ctl → ctl.getLsbD 4 = false → ¬ s.readHeld k →
    ∃ t y, exec (.addi d a 0) s = .next t ∧ WritesS s t d 1 y ∧ RegFrame s t [d.toNat] [] [] [] ∧ (y = v ∨ y = k.apply v) ∧
      (k.slot = s.cur.slot → k.entry + k.lat + 1 ≤ s.cur.entry → y = k.apply v) ∧
      (k.slot ≠ s.cur.slot → (∃ b ∈ s.cx.syncs, k.entry < b ∧ b + k.lat ≤ s.cur.entry) → y = k.apply v) ∧
      (s.cur.entry < k.entry ∨ (s.cur.entry = k.entry ∧ (k.slot = s.cur.slot ∨ k.entry ∈ s.cx.syncs)) → y = v)) ∧
  (∀ (s : State) (d a : BitVec 5) (i : BitVec 11) (ctl : Word), a ≠ 0 →
    (∃ k ∈ (s.cx.sreg a.toNat).pend, k.entry < s.cur.entry ∧ s.cx.reach k.slot ≤ k.land ∧ (k.slot = s.cur.slot → s.cur.entry ≤ k.land) ∧
      (k.slot ≠ s.cur.slot → ∀ b ∈ s.cx.syncs, k.entry < b → s.cur.entry < b + k.lat)) → (∀ k ∈ (s.cx.sreg a.toNat).pend, ¬ s.readHeld k) →
    s.hasCsr csrCTL ctl → ctl.getLsbD 4 = true → exec (.addi d a i) s = .next (s.raise (flt 0x10 0 0 0))) ∧
  (∀ (s : State) (d a : BitVec 5) (i : BitVec 11), a ≠ 0 → (∃ k ∈ (s.cx.sreg a.toNat).pend, s.readHeld k) →
    exec (.addi d a i) s = .next s.stall)

namespace Sys2Proof.Machine

/-- The byte that an aligned access of at most 8 bytes through core q names first (R55). -/
def homeAt (q : Nat) (ea : Word) : Option Nat :=
  let r := ea.toNat % 2 ^ 60
  match ea.toNat / 2 ^ 60 with
  | 8 => if r < 2 ^ 22 then some (spadPA q r) else none
  | 9 => if r < 2 ^ 23 then some (clusterPA (q / 8) r) else none
  | 10 => if r < 2 ^ 25 then some (diePA (q / 64) r) else none
  | 11 => if r < 2 ^ 29 then some (spadPA (r / 2 ^ 22) (r % 2 ^ 22)) else none
  | _ => none

/-- The effective address of an access with a displacement counted in units of n bytes (R71, R131). -/
def effAddr (n : Nat) (base : Word) (o : Int) : Word := BitVec.ofInt 64 (base.toNat + o * n)

/-- The loads of R131 with size and signedness, and the stores with size. -/
def ldTable : List ((BitVec 5 → BitVec 5 → BitVec 8 → Instr) × Nat × Bool) :=
  [(.ldb, 1, true), (.ldbz, 1, false), (.ldh, 2, true), (.ldhz, 2, false), (.ldw, 4, true), (.ldwz, 4, false), (.ldd, 8, true)]
def stTable : List ((BitVec 5 → BitVec 5 → BitVec 8 → Instr) × Nat) := [(.stb, 1), (.sth, 2), (.stw, 4), (.std, 8)]

/-- A number of n bytes as a register value (R131). -/
def loaded (n : Nat) (signed : Bool) (x : Nat) : Word := if signed then BitVec.ofInt 64 (Int.bmod x (2 ^ (8 * n))) else BitVec.ofNat 64 x

/-- An access of a task that is not speculative may go on at once: its context is one of the device's 512, no move holds its bytes and no
message to their store is undelivered, no word of it is POISON, no error is met, and no scratchpad write of its context is outstanding. -/
def State.clear (s : State) (pa n : Nat) : Prop :=
  s.cur.ctx < 512 ∧ s.cx.speculative = false ∧ s.accessHeld (span pa n) = false ∧ tagAt s.tags pa ≠ tagPoison ∧ s.struck = none ∧ s.cx.stores = []

end Sys2Proof.Machine

/-- R131, R132: a load from the own-core window writes the extended little-endian value of its bytes within 4 and changes nothing
else. -/
def Obligations.LoadsReadTheOwnScratchpad : Prop :=
  ∀ e ∈ ldTable, ∀ (d a : BitVec 5) (o : BitVec 8) (s : State) (base : Word) (pa : Nat), s.hasS a base →
    homeAt (coreOf s.cur.ctx) (effAddr e.2.1 base o.toInt) = some pa → (effAddr e.2.1 base o.toInt).toNat / 2 ^ 60 = 8 →
    (effAddr e.2.1 base o.toInt).toNat % e.2.1 = 0 → s.clear pa e.2.1 →
    IssuesS (e.1 d a o) s d 4 (loaded e.2.1 e.2.2 (readNat s.mem pa e.2.1))

/-- R131, R132, R41: a store to the own-core window issues with landing entry e + 4 and changes no byte before that; its landing
changes the bytes it names, and no others. -/
def Obligations.StoresLandInTheOwnScratchpad : Prop :=
  (∀ e ∈ stTable, ∀ (r a : BitVec 5) (o : BitVec 8) (s : State) (base v : Word) (pa : Nat), s.hasS a base → s.hasS r v →
    homeAt (coreOf s.cur.ctx) (effAddr e.2 base o.toInt) = some pa → (effAddr e.2 base o.toInt).toNat / 2 ^ 60 = 8 →
    (effAddr e.2 base o.toInt).toNat % e.2 = 0 → s.clear pa e.2 →
    ∃ t k, exec (e.1 r a o) s = .next t ∧ (t.ctx s.cur.ctx).stores = [k] ∧ k.slot = s.cur.slot ∧ k.entry = s.cur.entry ∧
      k.land = s.cur.entry + 4 ∧ k.landed = false ∧ k.bytes = (span pa e.2).zip (leBytes e.2 v.toNat) ∧ Advances s t ∧
      KeepsDevice s t ∧ KeepsMemory s t ∧ KeepsTags s t ∧ KeepsRegs s t [] [] [] [] ∧ KeepsUnits s t) ∧
  (∀ (c : Nat) (s : State) (k : StoreRec), (s.ctx c).stores = [k] → k.landed = false → k.land < (s.ctx c).reach k.slot →
    (k.bytes.map fun (b : Nat × Byte) => b.1).Nodup →
    ∃ t : State, exec (.landing c) s = .next t ∧ (∀ a, byteAt t.mem a = (k.newAt a).getD (byteAt s.mem a)) ∧ KeepsTags s t ∧
      ∀ c', c' ≠ c → t.ctx c' = s.ctx c')

namespace Sys2Proof.Machine

/-- What LANDING makes of a register to which one result is outstanding: it takes effect when its slot has issued its landing entry (R39). -/
def Lands {w : Nat} (x : Ctx) (old new : Cell w) : Prop :=
  ∀ v k, old = (Cell.of v).push k → (k.land < x.reach k.slot → new.pend = [] ∧ new.settled = k.apply v) ∧ (x.reach k.slot ≤ k.land → new = old)

/-- What an interlocked or blocking syllable makes of a register: the results of its own slot land at its entry or earlier, the others stay (R45). -/
def SlotLands {w : Nat} (s : State) (old new : Cell w) : Prop :=
  (∀ k ∈ new.pend, k.slot = s.cur.slot → k.land ≤ s.cur.entry ∨ statusBase ≤ k.land) ∧
    (new.pend.filter fun k => k.slot ≠ s.cur.slot) = (old.pend.filter fun k => k.slot ≠ s.cur.slot) ∧ new.base = old.base ∧ new.landed = old.landed

end Sys2Proof.Machine

/-- R39, R45, R211: LANDING: a result to a scalar register, predicate, vector register, shape register, CSR or scale buffer whose slot has issued its landing entry takes effect, one that is not due stays outstanding. Before an
interlocked or blocking syllable acts, every pending result of its own slot has landed at its entry or earlier, its scratchpad writes with it, but for the
status of a move, which stays with the move; the results of other slots stay. -/
def Obligations.ResultsLandAtTheirLandingEntry : Prop :=
  (∀ (c : Nat) (s : State), ∃ t : State, exec (.landing c) s = .next t ∧ (t.ctx c).entry = (s.ctx c).entry ∧ (t.ctx c).pc = (s.ctx c).pc ∧
    (∀ r, Lands (s.ctx c) ((s.ctx c).sreg r) ((t.ctx c).sreg r) ∧ Lands (s.ctx c) ((s.ctx c).preg r) ((t.ctx c).preg r) ∧
      Lands (s.ctx c) ((s.ctx c).vreg r) ((t.ctx c).vreg r) ∧ Lands (s.ctx c) ((s.ctx c).csrCell r) ((t.ctx c).csrCell r) ∧
      Lands (s.ctx c) ((s.ctx c).shapeActive r) ((t.ctx c).shapeActive r) ∧ Lands (s.ctx c) ((s.ctx c).shapeShadow r) ((t.ctx c).shapeShadow r)) ∧
    Lands (s.ctx c) (s.ctx c).scaleA (t.ctx c).scaleA ∧ Lands (s.ctx c) (s.ctx c).scaleB (t.ctx c).scaleB) ∧
  (∀ s : State,
    (∀ r, SlotLands s (s.cx.sreg r) (s.landSlot.cx.sreg r) ∧ SlotLands s (s.cx.preg r) (s.landSlot.cx.preg r) ∧
      SlotLands s (s.cx.vreg r) (s.landSlot.cx.vreg r) ∧ SlotLands s (s.cx.csrCell r) (s.landSlot.cx.csrCell r) ∧
      SlotLands s (s.cx.shapeShadow r) (s.landSlot.cx.shapeShadow r)) ∧
    SlotLands s s.cx.scaleA s.landSlot.cx.scaleA ∧ SlotLands s s.cx.scaleB s.landSlot.cx.scaleB ∧
    (s.cur.slot = .t → ∀ p ∈ s.landSlot.cx.tu.pend, p.1 ≤ s.cur.entry) ∧
    (∀ k ∈ s.landSlot.cx.stores, k.slot = s.cur.slot → k.landed = true) ∧
    (s.landSlot.cx.stores.filter fun k => k.slot ≠ s.cur.slot && !k.landed) = (s.cx.stores.filter fun k => k.slot ≠ s.cur.slot && !k.landed) ∧
    s.landSlot.cx.entry = s.cx.entry ∧ s.landSlot.cx.pc = s.cx.pc)

/-- R132, R33, R45: a scalar access outside the own-core window waits as a block event with its slot's results landed and its operands read; while the other
slot has an access at a lower entry to perform, it stalls. INTERLOCKED_COMPLETION then
performs the access that a context waits for: a load writes its value with L = 0, a store writes its bytes at the destination and no others. -/
def Obligations.OtherWindowsAreInterlocked : Prop :=
  (∀ e ∈ ldTable, ∀ (d a : BitVec 5) (o : BitVec 8) (s : State) (base : Word) (pa : Nat), s.hasS a base →
    homeAt (coreOf s.cur.ctx) (effAddr e.2.1 base o.toInt) = some pa → (effAddr e.2.1 base o.toInt).toNat / 2 ^ 60 ≠ 8 →
    (effAddr e.2.1 base o.toInt).toNat % e.2.1 = 0 → s.clear pa e.2.1 →
    (s.behindAccess = false → exec (e.1 d a o) s = .next (s.landSlot.blockWith .interlocked [effAddr e.2.1 base o.toInt])) ∧
    (s.behindAccess = true → exec (e.1 d a o) s = .next s.stall) ∧
    ∀ (c : Nat) (u : State) (b : Disp) (q : Queued), (u.ctx c).waiting .interlocked = [(b, q)] → q.syl.instr = e.1 d a o →
      q.ops = [effAddr e.2.1 base o.toInt] → u.atSyl c b q = s →
      ∃ t : State, exec (.interlockedCompletion c) u = .next t ∧
        WritesS s t d 0 (loaded e.2.1 e.2.2 (readNat s.mem pa e.2.1)) ∧ RegFrame s t [d.toNat] [] [] [] ∧ Advances s t) ∧
  (∀ e ∈ stTable, ∀ (r a : BitVec 5) (o : BitVec 8) (s : State) (base v : Word) (pa : Nat), s.hasS a base → s.hasS r v →
    homeAt (coreOf s.cur.ctx) (effAddr e.2 base o.toInt) = some pa → (effAddr e.2 base o.toInt).toNat / 2 ^ 60 ≠ 8 →
    (effAddr e.2 base o.toInt).toNat % e.2 = 0 → s.clear pa e.2 →
    (s.behindAccess = false → exec (e.1 r a o) s = .next (s.landSlot.blockWith .interlocked [effAddr e.2 base o.toInt, v])) ∧
    (s.behindAccess = true → exec (e.1 r a o) s = .next s.stall) ∧
    ∀ (c : Nat) (u : State) (b : Disp) (q : Queued), (u.ctx c).waiting .interlocked = [(b, q)] → q.syl.instr = e.1 r a o →
      q.ops = [effAddr e.2 base o.toInt, v] → u.atSyl c b q = s →
      ∃ t : State, exec (.interlockedCompletion c) u = .next t ∧ readNat t.mem pa e.2 = v.toNat % 2 ^ (8 * e.2) ∧
        MemFrame s t (span pa e.2) [] [] ∧ KeepsTags s t ∧ Advances s t)

/-- R56, R57, R59, R131: an access outside windows 0x8 to 0xB, with a one in a field that must be zero, or misaligned, raises the
precise window fault with the sub-cause of R351 and the address; no byte moves. -/
def Obligations.BadAddressesTrap : Prop :=
  ∀ (d a : BitVec 5) (o : BitVec 8) (s : State) (base v : Word), s.hasS a base → s.hasS d v →
    (∀ e ∈ ldTable,
      (homeAt (coreOf s.cur.ctx) (effAddr e.2.1 base o.toInt) = none →
        exec (e.1 d a o) s = .next (s.raise (flt 0x03 1 (effAddr e.2.1 base o.toInt) 0))) ∧
      (∀ pa, homeAt (coreOf s.cur.ctx) (effAddr e.2.1 base o.toInt) = some pa → (effAddr e.2.1 base o.toInt).toNat % e.2.1 ≠ 0 →
        pa % 2 ^ 22 + e.2.1 ≤ 2 ^ 22 → exec (e.1 d a o) s = .next (s.raise (flt 0x03 3 (effAddr e.2.1 base o.toInt) 0)))) ∧
    (∀ e ∈ stTable,
      (homeAt (coreOf s.cur.ctx) (effAddr e.2 base o.toInt) = none →
        exec (e.1 d a o) s = .next (s.raise (flt 0x03 1 (effAddr e.2 base o.toInt) 0))) ∧
      (∀ pa, homeAt (coreOf s.cur.ctx) (effAddr e.2 base o.toInt) = some pa → (effAddr e.2 base o.toInt).toNat % e.2 ≠ 0 →
        pa % 2 ^ 22 + e.2 ≤ 2 ^ 22 → exec (e.1 d a o) s = .next (s.raise (flt 0x03 3 (effAddr e.2 base o.toInt) 0))))

namespace Sys2Proof.Machine

/-- A release of the context in issue has nothing to wait for: it has no asynchronous access in flight and its core's store replay
queue is empty (R252). -/
def State.released (s : State) : Prop :=
  (∀ m ∈ s.moves, m.ctx ≠ s.cur.ctx) ∧ (∀ m ∈ s.msends, m.ctx ≠ s.cur.ctx) ∧ (∀ m ∈ s.eoss, m.ctx ≠ s.cur.ctx) ∧
    (s.core (coreOf s.cur.ctx)).replay = []

/-- Where one syllable of a context waits for a reason, a wake makes it act again, while its operands read as it read them (R45): the outcome is the
one of that syllable, or nothing when it waits on (R33). -/
def State.WakesAs (u : State) (c : Nat) (b : Block) (wake : Instr) (d : Disp) (q : Queued) : Prop :=
  (u.ctx c).waiting b = [(d, q)] → ∃ t : State, exec q.syl.instr (u.atSyl c d q) = .next t ∧
    exec wake u = .next (if (t.ctx c).queue = (u.ctx c).queue ∨ (t.ctx c).stalls d.entry q.slot = true then u else t)

/-- No syllable of any context and no copy waits on a word. -/
def State.waitless (s : State) (pa : Nat) : Prop :=
  (∀ c, ∀ d ∈ (s.ctx c).queue, ∀ q ∈ d.left, q.word ≠ some pa) ∧ ∀ n, ∀ e ∈ (s.fn n).flag, e.1 ≠ pa

/-- The tags after one word's tag is set. -/
def TagSet (s t : State) (pa : Nat) (g : BitVec 2) : Prop :=
  ∀ a, tagAt t.tags a = if a / 8 = pa / 8 then g else tagAt s.tags a

/-- FST.BRK is set at the syllable's own entry. -/
def SetsBrk (s t : State) : Prop :=
  (t.ctx s.cur.ctx).csrCell csrFST = (s.cx.csrCell csrFST).push ⟨s.cur.slot, s.cur.entry, 0, s.cur.entry, false, 128, 128⟩

end Sys2Proof.Machine

/-- R259, R260: LDF and LDFE of a FULL word write the word and leave it FULL or EMPTY; of a BROKEN word they write zero and set
FST.BRK; TAGGET reads the tag. The state is the one in which the slot's own results have landed (R45). -/
def Obligations.TaggedLoads : Prop :=
  ∀ (d a : BitVec 5) (o : BitVec 9) (s : State) (base : Word) (pa : Nat), s.hasS a base →
    homeAt (coreOf s.cur.ctx) (effAddr 8 base o.toInt) = some pa → (effAddr 8 base o.toInt).toNat % 8 = 0 → s.clear pa 8 →
    (tagAt s.tags pa = tagFull →
      (∃ t : State, exec (.ldf d a o) s = .next t ∧ WritesS s.landSlot t d 0 (BitVec.ofNat 64 (readNat s.mem pa 8)) ∧
        RegFrame s.landSlot t [d.toNat] [] [] []) ∧
      (∃ t : State, exec (.ldfe d a o) s = .next t ∧ WritesS s.landSlot t d 0 (BitVec.ofNat 64 (readNat s.mem pa 8)) ∧
        TagSet s t pa tagEmpty ∧ MemFrame s.landSlot t [] [d.toNat] [])) ∧
    (tagAt s.tags pa = tagBroken →
      (∃ t : State, exec (.ldf d a o) s = .next t ∧ WritesS s.landSlot t d 0 0 ∧ SetsBrk s.landSlot t ∧ RegFrame s.landSlot t [d.toNat] [] [] [csrFST]) ∧
      (∃ t : State, exec (.ldfe d a o) s = .next t ∧ WritesS s.landSlot t d 0 0 ∧ SetsBrk s.landSlot t ∧ RegFrame s.landSlot t [d.toNat] [] [] [csrFST])) ∧
    (∃ t : State, exec (.tagget d a o) s = .next t ∧ WritesS s.landSlot t d 0 (BitVec.ofNat 64 (tagAt s.tags pa).toNat) ∧
      RegFrame s.landSlot t [d.toNat] [] [] [])

/-- R259, R260: STE of an EMPTY word and STFL of an EMPTY or FULL word write the word and leave it FULL, and no other byte or tag
changes; on a BROKEN word both write nothing and set FST.BRK; TAGSET writes a tag, and one of BROKEN ends the waits of other contexts on the word as on a
BROKEN word (R275). TAGSET of POISON, and TAGSET of a word tagged POISON, raise the window fault with cause poison. -/
def Obligations.TaggedStores : Prop :=
  ∀ (r a : BitVec 5) (o : BitVec 9) (s : State) (base v : Word) (pa : Nat), s.hasS a base → s.hasS r v →
    homeAt (coreOf s.cur.ctx) (effAddr 8 base o.toInt) = some pa → (effAddr 8 base o.toInt).toNat % 8 = 0 →
    (s.cx.speculative = false → s.accessHeld (span pa 8) = false → v.toNat % 4 = 3 ∨ tagAt s.tags pa = tagPoison →
      exec (.tagset r a o) s = .next (s.raise (flt 0x03 10 (effAddr 8 base o.toInt) 0))) ∧
    (s.clear pa 8 → s.released →
    (tagAt s.tags pa = tagEmpty → ∃ t : State, exec (.ste r a o) s = .next t ∧ readNat t.mem pa 8 = v.toNat ∧ TagSet s t pa tagFull ∧
      MemFrame s.landSlot t (span pa 8) [] []) ∧
    (tagAt s.tags pa = tagEmpty ∨ tagAt s.tags pa = tagFull → ∃ t : State, exec (.stfl r a o) s = .next t ∧ readNat t.mem pa 8 = v.toNat ∧
      TagSet s t pa tagFull ∧ MemFrame s.landSlot t (span pa 8) [] []) ∧
    (tagAt s.tags pa = tagBroken → ∀ i ∈ [Instr.ste r a o, .stfl r a o], ∃ t : State, exec i s = .next t ∧ SetsBrk s.landSlot t ∧
      RegFrame s.landSlot t [] [] [] [csrFST]) ∧
    (v.toNat % 4 ≠ 3 → ∃ t : State, exec (.tagset r a o) s = .next t ∧ TagSet s t pa (BitVec.ofNat 2 v.toNat) ∧ KeepsMemory s t ∧
      KeepsRegs s.landSlot t [] [] [] [] ∧ KeepsUnits s.landSlot t ∧
      (BitVec.ofNat 2 v.toNat ≠ tagBroken ∨ s.waitless pa → MemFrame s.landSlot t [] [] [] ∧ Advances s t) ∧
      (BitVec.ofNat 2 v.toNat = tagBroken → ∀ c, c ≠ s.cur.ctx → ∀ d ∈ (s.ctx c).queue, ∀ q ∈ d.left, q.blk ≠ none → q.word = some pa →
        ∃ d' ∈ (t.ctx c).queue, { q with blk := some Block.broken } ∈ d'.left)))

/-- R259, R33, R45: LDF and LDFE of an EMPTY word and STE of a FULL word wait on it as a block event; TAGGED_WAKE makes the waiting access act
again on the word that it names, on the tag as it then stands, and changes nothing while that leaves it waiting. -/
def Obligations.TaggedAccessesWait : Prop :=
  (∀ (r a : BitVec 5) (o : BitVec 9) (s : State) (base v : Word) (pa : Nat), s.hasS a base → s.hasS r v →
    homeAt (coreOf s.cur.ctx) (effAddr 8 base o.toInt) = some pa → (effAddr 8 base o.toInt).toNat % 8 = 0 → s.cx.speculative = false →
    (tagAt s.tags pa = tagEmpty → s.accessHeld (span pa 8) = false →
      exec (.ldf r a o) s = .next (s.landSlot.blockOn pa .tagged [effAddr 8 base o.toInt]) ∧
      exec (.ldfe r a o) s = .next (s.landSlot.blockOn pa .tagged [effAddr 8 base o.toInt])) ∧
    (tagAt s.tags pa = tagFull → exec (.ste r a o) s = .next (s.landSlot.blockOn pa .tagged [effAddr 8 base o.toInt, v]))) ∧
  (∀ (r a : BitVec 5) (o : BitVec 9) (c : Nat) (u : State) (b : Disp) (q : Queued) (base v : Word), (u.atSyl c b q).hasS a base →
    (q.syl.instr = .ste r a o → (u.atSyl c b q).hasS r v) →
    q.ops = (if q.syl.instr = .ste r a o then [effAddr 8 base o.toInt, v] else [effAddr 8 base o.toInt]) → (u.ctx c).speculative = false →
    q.syl.instr ∈ [Instr.ldf r a o, .ldfe r a o, .ste r a o] → (u.ctx c).waiting .broken = [] → (u.ctx c).waiting .unheard = [] →
    u.WakesAs c .tagged (.taggedWake c) b q)

namespace Sys2Proof.Machine

/-- The CSRs that a program reads and writes, with the bits that their maps mark zero (R73, R137-R143, R361-R364) and the bits that a
write leaves (SSTAT.MODE and PREEMPT.BUSY are read only). -/
def csrTable : List (Nat × Word × Word) :=
  [(0x000, 0xFFFFFFFFFFFFFF00, 0), (0x001, 0xFFFFFFFFFFFFFF00, 0), (0x006, 0xFFFFFFFFFFFFFFF0, 0)] ++
  (List.range 32).map (fun i => (0x010 + i, 0, 0)) ++
  [(0x800, 3, 0), (0x801, 0x000000FFFFFFFC00, 0), (0x802, 0xFFF, 0), (0x803, 3, 0), (0x804, 0xFFFFFFFF00FFFFFC, 1), (0x805, 0xFFFFFFFFFFFFFFFC, 2)]

/-- An M or T instruction. -/
def isUnitInstr : Instr → Bool
  | .trin _ _ | .trpop _ _ | .trcfg _ _ _ | .trclr _ | .mma _ _ _ _ _ _ _ _ _ | .mmav _ _ _ _ _ _ _ _ _ | .mcma _ _ _ _ _ _ _ _
  | .mzero _ _ _ | .mdrain _ _ _ _ _ _ _ | .mfill _ _ _ _ _ | .mfmt _ _ _ _ | .mnop _ _ => true
  | _ => false

end Sys2Proof.Machine

/-- R136, R141, R364: CSRR writes the CSR's value within 2: a register that a program writes reads as last written, CTX names the die,
cluster, core and context, LK and SEQ come from the task, CYC is the core's count, MARGIN the die's re-plans. Supervisor numbers are
read in supervisor mode. -/
def Obligations.CsrReads : Prop :=
  ∀ (d : BitVec 5) (s : State),
    (∀ e ∈ csrTable, ∀ v, s.hasCsr e.1 v → e.1 < 0x800 ∨ s.cx.supervisor = true → IssuesS (.csrr d (BitVec.ofNat 12 e.1)) s d 2 v) ∧
    (s.cur.ctx < 512 → IssuesS (.csrr d 3) s d 2
      (BitVec.ofNat 64 (256 * dieOf s.cur.ctx + 32 * (clusterOf s.cur.ctx % 8) + 4 * (coreOf s.cur.ctx % 8) + s.cur.ctx % 4))) ∧
    (∀ tk, s.cx.task = some tk → IssuesS (.csrr d 4) s d 2 (BitVec.ofNat 64 tk.trec.lk.toNat) ∧
      IssuesS (.csrr d 5) s d 2 (BitVec.ofNat 64 tk.trec.seq.toNat)) ∧
    (∃ t y, exec (.csrr d 2) s = .next t ∧ WritesS s t d 2 y ∧ (t.core (coreOf s.cur.ctx)).cyc = y ∧ KeepsMemory s t ∧ KeepsTags s t ∧
      KeepsRegs s t [d.toNat] [] [] [] ∧ KeepsUnits s t) ∧
    (s.cx.supervisor = true → IssuesS (.csrr d 0x806) s d 2
      (BitVec.ofNat 64 ((s.die (dieOf s.cur.ctx)).epoch.toNat * 2 ^ 32 + (s.die (dieOf s.cur.ctx)).guardBand.toNat * 2 ^ 8 +
        (if (s.die (dieOf s.cur.ctx)).replan then 1 else 0))))

/-- R136, R137: a CSRW of a value that no zero bit of the CSR forbids takes effect at e + 1, and changes nothing else (a CSRW to CTL
that changes PART is legal once the context's M syllables are complete, R245); a value that sets a bit marked zero raises the privilege
fault "illegal CSR value" and the CSR is unchanged. -/
def Obligations.CsrWrites : Prop :=
  ∀ (a : BitVec 5) (s : State) (v : Word), s.hasS a v → ∀ e ∈ csrTable, e.1 < 0x800 ∨ s.cx.supervisor = true →
    (v &&& e.2.1 = 0 → (e.1 = 0 → ∀ k ∈ s.cx.mdone, k.2 ≤ s.cur.entry) →
      ∃ t : State, exec (.csrw a (BitVec.ofNat 12 e.1)) s = .next t ∧
        (t.ctx s.cur.ctx).csrCell e.1 = (s.cx.csrCell e.1).push ⟨s.cur.slot, s.cur.entry, 1, s.cur.entry + 1, false, ~~~e.2.2, v⟩ ∧
        Advances s t ∧ RegFrame s t [] [] [] [e.1] ∧
        (e.1 = 0x805 → v.getLsbD 0 = true → (t.ctx s.cur.ctx).preemptReq = true)) ∧
    (v &&& e.2.1 ≠ 0 → exec (.csrw a (BitVec.ofNat 12 e.1)) s = .next (s.raise (flt 0x02 2 0 0)))

/-- R74, R356: in user mode a CSRR or CSRW of a supervisor number, ERET and HARVEST raise the precise privilege fault; in supervisor
mode an M or T syllable whose guard holds does. -/
def Obligations.PrivilegeFaults : Prop :=
  (∀ (s : State) (d : BitVec 5) (c : BitVec 12), s.cx.supervisor = false → 0x800 ≤ c.toNat →
    exec (.csrr d c) s = .next (s.raise (flt 0x02 1 0 0)) ∧ exec (.csrw d c) s = .next (s.raise (flt 0x02 1 0 0))) ∧
  (∀ s : State, s.cx.supervisor = false → exec .eret s = .next (s.raise (flt 0x02 1 0 0)) ∧
    exec .harvest s = .next (s.raise (flt 0x02 1 0 0))) ∧
  (∀ (s : State) (g : BitVec 4) (i : Instr), s.cx.supervisor = true → s.guard4Is g true → guard4Of i = some g →
    isUnitInstr i = true → exec i s = .next (s.raise (flt 0x02 1 0 0)))

namespace Sys2Proof.Machine

/-- The fields of a shape register: base, element size, bounds with 0 taken as 1, strides (R72). -/
def shapeFields (v : ShapeBits) : Word × Nat × List Nat × List Int :=
  (shBase v, shEs v, shBounds v, (List.range 6).map (shStride v))

/-- The fields after SHW writes one of them from a register value (R72). -/
def afterShw (f : Nat) (x : Word) (p : Word × Nat × List Nat × List Int) : Word × Nat × List Nat × List Int :=
  if f = 0 then (x, p.2)
  else if f = 1 then (p.1, 2 ^ (x.toNat % 8), p.2.2)
  else if f < 8 then (p.1, p.2.1, p.2.2.1.set (f - 2) (max 1 (x.toNat % 2 ^ 16)), p.2.2.2)
  else (p.1, p.2.1, p.2.2.1, p.2.2.2.set (f - 8) (Int.bmod x.toNat (2 ^ 32)))

end Sys2Proof.Machine

/-- R134, R72: SHW changes one field of the shadow copy of the named shape register, with bound 1, and nothing else; HWEAK makes the
weak handle of a strong one (R337). -/
def Obligations.ShapeWritesAndWeakHandles : Prop :=
  (∀ (slot h : BitVec 2) (f a : BitVec 5) (s : State) (x : Word), f.toNat < 14 → s.hasS a x →
    ∃ t k, exec (.shw slot h f a) s = .next t ∧ (t.ctx s.cur.ctx).shapeShadow (4 * slot.toNat + h.toNat) =
        (s.cx.shapeShadow (4 * slot.toNat + h.toNat)).push k ∧ k.entry = s.cur.entry ∧ k.lat = 1 ∧ k.land = s.cur.entry + 1 ∧
      (∀ old, shapeFields (k.apply old) = afterShw f.toNat x (shapeFields old)) ∧
      (∀ r, r ≠ 4 * slot.toNat + h.toNat → (t.ctx s.cur.ctx).shapeShadow r = s.cx.shapeShadow r) ∧
      (∀ r, (t.ctx s.cur.ctx).shapeActive r = s.cx.shapeActive r) ∧
      KeepsDevice s t ∧ KeepsMemory s t ∧ KeepsTags s t ∧ KeepsRegs s t [] [] [] []) ∧
  (∀ (d a : BitVec 5) (s : State) (x : Word), s.hasS a x →
    (x.toNat / 2 ^ 60 = 4 → x.toNat % 2 ^ 16 = 0 → IssuesS (.hweak d a) s d 1 (BitVec.ofNat 64 (x.toNat + 2 ^ 60))) ∧
    (x.toNat / 2 ^ 60 ≠ 4 ∨ x.toNat % 2 ^ 16 ≠ 0 → exec (.hweak d a) s = .next (s.raise (flt 0x03 6 x x))))

/-- R144 to R148: a taken branch at entry k redirects entry k + 3; a B with n = 1 that is not taken nullifies entries k + 1 and k + 2;
a JR to a misaligned target raises the window fault; JAL writes its link within 1. -/
def Obligations.BranchesRedirect : Prop :=
  ∀ (g d a : BitVec 5) (n : BitVec 1) (disp : BitVec 15) (im : BitVec 16) (s : State) (x : Word), s.hasS a x →
    (s.guardIs g true → ∃ t : State, exec (.branch g n disp) s = .next t ∧ RegFrame s t [] [] [] [] ∧
      (t.ctx s.cur.ctx).redirects = s.cx.redirects ++ [(s.cur.entry + 3, BitVec.ofInt 64 (s.cur.pc.toNat + 4 * disp.toInt))]) ∧
    (s.guardIs g false → ∃ t : State, exec (.branch g 1 disp) s = .next t ∧ RegFrame s t [] [] [] [] ∧ (t.ctx s.cur.ctx).redirects = s.cx.redirects ∧
      s.cur.entry + 1 ∈ (t.ctx s.cur.ctx).nulls ∧ s.cur.entry + 2 ∈ (t.ctx s.cur.ctx).nulls) ∧
    (s.guardIs g false → ∃ t : State, exec (.branch g 0 disp) s = .next t ∧ Advances s t ∧ RegFrame s t [] [] [] []) ∧
    (s.guardIs g true → x.toNat % 4 = 0 → ∃ t : State, exec (.jr g a) s = .next t ∧ RegFrame s t [] [] [] [] ∧
      (t.ctx s.cur.ctx).redirects = s.cx.redirects ++ [(s.cur.entry + 3, x)]) ∧
    (s.guardIs g true → x.toNat % 4 ≠ 0 → exec (.jr g a) s = .next (s.raise (flt 0x03 3 x 0))) ∧
    (∀ l, s.linkAddr s.cur.ctx = .ok l → ∃ t : State, exec (.jal d im) s = .next t ∧ WritesS s t d 1 l ∧ RegFrame s t [d.toNat] [] [] [] ∧
      (t.ctx s.cur.ctx).redirects = s.cx.redirects ++ [(s.cur.entry + 3, BitVec.ofInt 64 (s.cur.pc.toNat + 4 * im.toInt))])

/-- R35, R38, R146: a bundle that dispatch takes outside a loop gets the next entry number and joins the slot queues, and the context stands before
the entry after it, at the address after the bundle; a marker is placed when it is a sync bundle. REDIRECT takes the pc of a redirect that is due and ends
every loop. -/
def Obligations.DispatchFollowsTheRedirects : Prop :=
  (∀ (x : Ctx) (l : List Queued), x.loop = none →
    (x.take l).entry = x.entry + 1 ∧ (x.take l).pc = x.pc + BitVec.ofNat 64 (4 * l.length) ∧ (x.take l).loop = none ∧
      (x.take l).redirects = x.redirects ∧ (x.take l).syncs = (if l.any (fun q => q.syl.sync) then x.syncs ++ [x.entry] else x.syncs) ∧
      ∃ d : Disp, (x.take l).queue = x.prune.queue ++ [d] ∧ (d.entry, d.pc, d.len) = (x.entry, x.pc, l.length) ∧
        (x.entry ∈ x.nulls → d.left = []) ∧
        (x.entry ∉ x.nulls → ∀ q, q ∈ d.left ↔ q ∈ l ∧ Sparse.get 0 x.front q.slot.num ≤ x.entry)) ∧
  (∀ (c : Nat) (s : State) (goal : Word) (rs : List (Nat × Word)), s.mayDispatch c = true → (s.ctx c).stagesFree = true →
    (s.ctx c).redirects = ((s.ctx c).entry, goal) :: rs → (∀ r ∈ rs, r.1 ≠ (s.ctx c).entry) →
    ∃ t : State, exec (.redirect c) s = .next t ∧ (t.ctx c).pc = goal ∧ (t.ctx c).redirects = rs ∧ (t.ctx c).loop = none ∧
      (t.ctx c).entry = (s.ctx c).entry ∧ KeepsMemory s t ∧ KeepsTags s t ∧ ∀ c', c' ≠ c → t.ctx c' = s.ctx c')

/-- R151, R152: a loop instruction sets the context's loop: its body is the n bundles that follow, its count the register's value, or the
product of the bounds of the active X shape register, its stages those given. -/
def Obligations.LoopInstructionsStartTheirLoop : Prop :=
  ∀ (b : BitVec 6) (a : BitVec 5) (h st : BitVec 2) (s : State) (x : Word) (v : ShapeBits), s.cx.loop = none → s.hasS a x →
    s.cx.shapeActive (12 + h.toNat) = Cell.of v →
    ∀ e ∈ [(Instr.loop b a, LoopKind.loop, x.toNat, 1), (.loopn b h, .loopn, (shBounds v).foldl (· * ·) 1, 1),
        (.loopp b h st, .loopp, (shBounds v).foldl (· * ·) 1, st.toNat + 1)],
      ∃ t l, exec e.1 s = .next t ∧ (t.ctx s.cur.ctx).loop = some l ∧ l.kind = e.2.1 ∧ l.count = e.2.2.1 ∧ l.stages = e.2.2.2 ∧
        l.len = b.toNat + 1 ∧ l.body = s.cur.pc + BitVec.ofNat 64 (4 * s.disp.len) ∧ (t.ctx s.cur.ctx).pc = l.body ∧ l.pass = 0 ∧ l.started = false ∧
        RegFrame s t [] [] [] []

/-- R153: a loop of N iterations and S stages has N + S - 1 passes, or none; LOOP_PASS starts a pass that is left, and for LOOPP stage
predicate p(8 + st) is then all ones exactly when st < S and 0 ≤ j - st < N; LOOP_END ends a loop of exhausted passes, with the stage
predicates of LOOPP zero, and dispatch goes on after the body. -/
def Obligations.LoopPassesAndEnds : Prop :=
  ∀ (c : Nat) (s : State) (l : LoopSt), s.mayDispatch c = true → (s.ctx c).stagesFree = true → (s.ctx c).loop = some l → (s.ctx c).redirects = [] →
    l.started = false → l.draining = false → 0 < l.stages →
    (l.count ≠ 0 → l.pass < l.count + l.stages - 1 → (s.ctx c).preemptReq = false →
      ∃ t : State, exec (.loopPass c) s = .next t ∧ (t.ctx c).loop = some { l with started := true } ∧
        (l.kind = .loopp → ∀ st < 4, ((s.ctx c).preg (8 + st)).pend = [] →
          ((t.ctx c).preg (8 + st)).settled = outcome (decide (st < l.stages ∧ st ≤ l.pass ∧ l.pass - st < l.count))) ∧
        (l.kind ≠ .loopp → (t.ctx c).p = (s.ctx c).p) ∧ (t.ctx c).s = (s.ctx c).s ∧ (t.ctx c).pc = (s.ctx c).pc ∧ KeepsMemory s t) ∧
    (l.count ≠ 0 → l.count + l.stages - 1 ≤ l.pass →
      ∃ t : State, exec (.loopEnd c) s = .next t ∧ (t.ctx c).loop = none ∧ (t.ctx c).pc = (s.ctx c).pc ∧
        (l.kind = .loopp → ∀ st < 4, ((s.ctx c).preg (8 + st)).pend = [] → ((t.ctx c).preg (8 + st)).settled = 0) ∧ KeepsMemory s t) ∧
    (∀ goal, l.count = 0 → s.skipBundles c l.len l.body = .ok goal →
      ∃ t : State, exec (.loopEnd c) s = .next t ∧ (t.ctx c).loop = none ∧ (t.ctx c).pc = goal ∧ KeepsMemory s t)

namespace Sys2Proof.Machine

/-- FST flags are issued with a bound: they are set at the landing (R140). -/
def FlagsIssued (s t : State) (lat : Nat) (flags : Word) : Prop :=
  (t.ctx s.cur.ctx).csrCell csrFST = if flags = 0 then s.cx.csrCell csrFST else
    (s.cx.csrCell csrFST).push ⟨s.cur.slot, s.cur.entry, lat, s.cur.entry + lat, false, flags, flags⟩

/-- The union of the flags of the active lanes (R163). -/
def laneFlags (act : Nat → Bool) (fl : Nat → Word) : Word := (List.range 64).foldl (fun w i => w ||| (if act i then fl i else 0)) 0

/-- An instruction completes from a state u that the syllable's own landings leave: the lanes that it writes of its vector destination have
their results issued within lat, the others keep their contents, the flags of the active lanes are issued with them, its context goes on, and
everything else is as in u (R162, R163). -/
def IssuesVFrom (i : Instr) (s u : State) (d : BitVec 5) (lat : Nat) (wr act : Nat → Bool) (res : Nat → FRes) : Prop :=
  ∃ t k, exec i s = .next t ∧ (t.ctx u.cur.ctx).vreg d.toNat = (u.cx.vreg d.toNat).push k ∧ k.slot = u.cur.slot ∧ k.entry = u.cur.entry ∧
    k.lat = lat ∧ k.land = u.cur.entry + lat ∧ k.exact = false ∧
    (∀ l < 64, lane k.mask l = if wr l then BitVec.ofInt 32 (-1) else 0) ∧
    (∀ l < 64, wr l = true → lane k.val l = BitVec.ofNat 32 (res l).bits) ∧
    FlagsIssued u t lat (laneFlags act fun l => (res l).flags) ∧ Advances u t ∧ RegFrame u t [] [] [d.toNat] [csrFST]

/-- The same for an instruction that lands nothing early and writes the lanes whose flags it sets. -/
def IssuesV (i : Instr) (s : State) (d : BitVec 5) (lat : Nat) (act : Nat → Bool) (res : Nat → FRes) : Prop :=
  IssuesVFrom i s s d lat act act res

/-- What CTL holds for a vector instruction (R138). -/
def envOf (ctl : Word) : FEnv := ⟨ctl.extractLsb' 1 2, ctl.getLsbD 3, ctl.getLsbD 0⟩

/-- An integer lane result, which sets no flag (R93). -/
def laneInt (x : Int) : FRes := ⟨(BitVec.ofInt 32 x).toNat, 0⟩

/-- The lesser and the greater of two by a given order. -/
def lesser (le : Bool) (x y : Half) : FRes := ⟨(if le then x else y).toNat, 0⟩

/-- The element-wise operations with a type by R167 and R168: 00 FP32, 01 signed, 10 unsigned, 11 the alternate. -/
def specVadd (t : BitVec 2) (e : FEnv) (x y : Half) : FRes :=
  if t = 0 then fAdd e (f32 x) (f32 y) else if t = 3 then laneInt (max (-2 ^ 31) (min (2 ^ 31 - 1) (x.toInt + y.toInt))) else laneInt (x.toNat + y.toNat)
def specVsub (t : BitVec 2) (e : FEnv) (x y : Half) : FRes :=
  if t = 0 then fSub e (f32 x) (f32 y) else if t = 3 then laneInt (max (-2 ^ 31) (min (2 ^ 31 - 1) (x.toInt - y.toInt))) else laneInt (x.toInt - y.toInt)
def specVmul (t : BitVec 2) (e : FEnv) (x y : Half) : FRes :=
  if t = 0 then fMul e (f32 x) (f32 y) else if t = 3 then laneInt (x.toInt * y.toInt / 2 ^ 32) else laneInt (x.toNat * y.toNat)
def specVmin (t : BitVec 2) (_ : FEnv) (x y : Half) : FRes :=
  if t = 0 then fMinMax false false x y else if t = 3 then fMinMax false true x y
  else if t = 1 then lesser (x.toInt ≤ y.toInt) x y else lesser (x.toNat ≤ y.toNat) x y
def specVmax (t : BitVec 2) (_ : FEnv) (x y : Half) : FRes :=
  if t = 0 then fMinMax true false x y else if t = 3 then fMinMax true true x y
  else if t = 1 then lesser (y.toInt ≤ x.toInt) x y else lesser (y.toNat ≤ x.toNat) x y
def specVabs (t : BitVec 2) (_ : FEnv) (x : Half) : FRes :=
  if t = 0 then (if (f32 x).isNan then ⟨0x7FC00000, (f32 x).sig⟩ else ⟨x.toNat % 2 ^ 31, 0⟩) else laneInt x.toInt.natAbs
def specVneg (t : BitVec 2) (_ : FEnv) (x : Half) : FRes :=
  if t = 0 then (if (f32 x).isNan then ⟨0x7FC00000, (f32 x).sig⟩ else ⟨(x.toNat + 2 ^ 31) % 2 ^ 32, 0⟩) else laneInt (-x.toInt)

/-- The typed element-wise instructions of two operands and of one, with their bounds (R83, R167). -/
def vTable2 : List ((BitVec 4 → BitVec 2 → BitVec 5 → BitVec 5 → BitVec 5 → Instr) × Nat × (BitVec 2 → FEnv → Half → Half → FRes)) :=
  [(.vadd, 2, specVadd), (.vsub, 2, specVsub), (.vmul, 3, specVmul), (.vmin, 2, specVmin), (.vmax, 2, specVmax)]
def vTable1 : List ((BitVec 4 → BitVec 2 → BitVec 5 → BitVec 5 → Instr) × (BitVec 2 → FEnv → Half → FRes)) :=
  [(.vabs, specVabs), (.vneg, specVneg)]

/-- The untyped element-wise instructions of two operands, bound 2 (R167). -/
def vTableU : List ((BitVec 4 → BitVec 5 → BitVec 5 → BitVec 5 → Instr) × (Half → Half → Half)) :=
  [(.vand, specAnd 32), (.vor, specOr 32), (.vxor, specXor 32), (.vshl, specShl 32), (.vshr, specShr 32), (.vsar, specSar 32)]

end Sys2Proof.Machine

/-- R162, R163, R167, R168: the element-wise vector instructions write the result of each active lane within their bound, set the union of
the lanes' flags, and change nothing else. -/
def Obligations.VectorElementwiseResults : Prop :=
  ∀ (m : BitVec 4) (ty : BitVec 2) (d a b : BitVec 5) (s : State) (p ctl : Word) (x y z : VReg), s.openV d → s.hasP m p →
    s.hasV a x → s.hasV b y → s.hasV d z → s.hasCsr csrCTL ctl →
    (∀ e ∈ vTable2, IssuesV (e.1 m ty d a b) s d e.2.1 p.getLsbD fun i => e.2.2 ty (envOf ctl) (lane x i) (lane y i)) ∧
    (∀ e ∈ vTable1, IssuesV (e.1 m ty d a) s d 2 p.getLsbD fun i => e.2 ty (envOf ctl) (lane x i)) ∧
    (∀ e ∈ vTableU, IssuesV (e.1 m d a b) s d 2 p.getLsbD fun i => ⟨(e.2 (lane x i) (lane y i)).toNat, 0⟩) ∧
    IssuesV (.vfma m ty d a b) s d 4 p.getLsbD (fun i => if ty = 0 then fFma (envOf ctl) (f32 (lane z i)) (f32 (lane x i)) (f32 (lane y i))
      else laneInt ((lane z i).toNat + (lane x i).toNat * (lane y i).toNat)) ∧
    IssuesV (.vmov m d a) s d 2 p.getLsbD (fun i => ⟨(lane x i).toNat, 0⟩) ∧
    IssuesV (.vpopc m d a) s d 3 p.getLsbD (fun i => ⟨(specPopc 32 (lane x i)).toNat, 0⟩) ∧
    IssuesV (.viota m d) s d 1 p.getLsbD (fun i => ⟨i, 0⟩) ∧
    IssuesV (.vsel m d a b) s d 2 (fun _ => true) (fun i => ⟨(if p.getLsbD i then lane x i else lane y i).toNat, 0⟩)

/-- R175, R174, R169: VPERM, VBCAST and VGET move lanes; VSORT orders the active lanes by key, the inactive ones after them: every output
lane is a distinct source lane, keys do not fall (rise, when descending), equal keys keep their lane order. -/
def Obligations.VectorLaneMoves : Prop :=
  ∀ (m : BitVec 4) (ty : BitVec 2) (d a b : BitVec 5) (ix de : BitVec 1) (s : State) (p r : Word) (x y : VReg), s.hasP m p → s.hasV a x →
    (s.openV d → s.hasV b y → IssuesV (.vperm m d a b) s d 4 p.getLsbD fun i => ⟨(lane x ((lane y i).toNat % 64)).toNat, 0⟩) ∧
    (s.openV d → s.hasS a r → IssuesV (.vbcast m d a) s d 2 p.getLsbD fun _ => ⟨r.toNat % 2 ^ 32, 0⟩) ∧
    (s.hasS b r → IssuesS (.vget ty d a b) s d 3 (if ty = 1 then BitVec.ofInt 64 (lane x (r.toNat % 64)).toInt
      else BitVec.ofNat 64 (lane x (r.toNat % 64)).toNat)) ∧
    (s.openV d → ∃ src : List Nat, src.length = 64 ∧ src.Nodup ∧ (∀ i ∈ src, i < 64) ∧
      (∀ i j, i < j → j < 64 → p.getLsbD (src.getD j 0) = true → p.getLsbD (src.getD i 0) = true) ∧
      (∀ i j, i < j → j < 64 → (p.getLsbD (src.getD i 0) = false → p.getLsbD (src.getD j 0) = false → src.getD i 0 < src.getD j 0)) ∧
      (∀ i j, i < j → j < 64 → p.getLsbD (src.getD i 0) = true → p.getLsbD (src.getD j 0) = true →
        let u := sortKey ty (lane x (src.getD i 0))
        let v := sortKey ty (lane x (src.getD j 0))
        (if de = 1 then v < u else u < v) ∨ (u = v ∧ src.getD i 0 < src.getD j 0)) ∧
      IssuesV (.vsort m ty d a ix de) s d 16 (fun _ => true) fun i =>
        if ix = 1 then ⟨src.getD i 0, 0⟩ else ⟨(lane x (src.getD i 0)).toNat, 0⟩)

namespace Sys2Proof.Machine

/-- The pairwise tree of R113 over 2^n lanes from lane k on: bits and the union of flags. -/
def tree (f : Half → Half → FRes) (x : Nat → Half) : Nat → Nat → FRes
  | 0, k => ⟨(x k).toNat, 0⟩
  | n + 1, k =>
    let a := tree f x n k
    let b := tree f x n (k + 2 ^ n)
    let r := f (BitVec.ofNat 32 a.bits) (BitVec.ofNat 32 b.bits)
    ⟨r.bits, a.flags ||| b.flags ||| r.flags⟩

/-- The prefixes of R113 after n levels of doubling, at lane i. -/
def prefixes (f : Half → Half → FRes) (x : Nat → Half) : Nat → Nat → FRes
  | 0, i => ⟨(x i).toNat, 0⟩
  | n + 1, i =>
    if i < 2 ^ n then prefixes f x n i
    else
      let a := prefixes f x n (i - 2 ^ n)
      let b := prefixes f x n i
      let r := f (BitVec.ofNat 32 a.bits) (BitVec.ofNat 32 b.bits)
      ⟨r.bits, a.flags ||| b.flags ||| r.flags⟩

/-- The operations of VRED and VSCAN with the identity of R113 for their type. -/
def redTable : List (BitVec 5 × (BitVec 2 → FEnv → Half → Half → FRes) × (BitVec 2 → Half)) :=
  [(0, specVadd, fun t => if t = 0 then 0x80000000 else 0),
   (1, specVmin, fun t => if t = 0 then 0x7F800000 else if t = 1 then 0x7FFFFFFF else 0xFFFFFFFF),
   (2, specVmax, fun t => if t = 0 then 0xFF800000 else if t = 1 then 0x80000000 else 0)]

end Sys2Proof.Machine

/-- R113, R173: VRED writes lane 0 with the pairwise tree over the lanes, VSCAN every lane with the doubling prefixes, setting the flags of
the active lanes (log 76); inactive lanes enter with the identity. -/
def Obligations.VectorReductionsFollowTheTree : Prop :=
  ∀ e ∈ redTable, ∀ (m : BitVec 4) (ty : BitVec 2) (d a : BitVec 5) (s : State) (p ctl : Word) (x : VReg), ty ≠ 3 → s.openV d →
    s.hasP m p → s.hasV a x → s.hasCsr csrCTL ctl →
    IssuesV (.vred m ty d a e.1) s d 8 (fun i => decide (i = 0))
      (fun _ => tree (e.2.1 ty (envOf ctl)) (fun i => if p.getLsbD i then lane x i else e.2.2 ty) 6 0) ∧
    IssuesVFrom (.vscan m ty d a e.1) s s d 8 (fun _ => true) p.getLsbD
      (fun l => prefixes (e.2.1 ty (envOf ctl)) (fun i => if p.getLsbD i then lane x i else e.2.2 ty) 6 l)

/-- R114, R171, R172, R176, R177: the conversions, quantisations, functions and complex products write their lanes within their bounds. The
lane results are those of the model's definitions cited. -/
def Obligations.VectorConversionsAndFunctions : Prop :=
  ∀ (m : BitVec 4) (d a b c : BitVec 5) (f : BitVec 2) (s : State) (p ctl : Word) (x y z : VReg), s.openV d → s.hasP m p →
    s.hasV a x → s.hasV b y → s.hasV d z → s.hasCsr csrCTL ctl →
    (c.toNat < 0x12 → IssuesV (.vcvt m d a c) s d 3 p.getLsbD fun i => cvtLane c.toNat (envOf ctl) (lane x i)) ∧
    (0x12 ≤ c.toNat → IssuesV (.vcvt m d a c) s d 3 (fun i => p.getLsbD (i / 2 * 2)) fun i =>
      if i % 2 = 1 then ⟨0, 0⟩ else (fxDest c.toNat).convert (envOf ctl)
        (fxNum (Int.bmod (lane z i).toNat 256) (BitVec.ofNat 64 ((lane x i).toNat + 2 ^ 32 * (lane x (i + 1)).toNat)))) ∧
    IssuesV (.vdeq m d a f) s d 4 p.getLsbD (fun i => deqLane (quantFmt f) (envOf ctl) x i) ∧
    (∃ t k, ∃ q : Nat → Nat × List FRes, exec (.vquant m d a f) s = .next t ∧ (t.ctx s.cur.ctx).vreg d.toNat = (s.cx.vreg d.toNat).push k ∧
      k.mask = BitVec.allOnes 2048 ∧ k.land = s.cur.entry + 6 ∧ Advances s t ∧ RegFrame s t [] [] [d.toNat] [csrFST] ∧
      (∀ j < 8, q j = quantBlock (quantFmt f) (envOf ctl)
        ((List.range 8).map fun i => if p.getLsbD (8 * j + i) then f32 (lane x (8 * j + i)) else .fin false 0 0)) ∧
      (∀ j < 8, (k.val.extractLsb' (512 + 8 * j) 8).toNat = (q j).1 % 256) ∧
      (f.toNat < 2 → ∀ i < 64, (k.val.extractLsb' (8 * i) 8).toNat = ((q (i / 8)).2.getD (i % 8) ⟨0, 0⟩).bits % 256) ∧
      (f.toNat = 2 → ∀ i < 64, (k.val.extractLsb' (4 * i) 4).toNat = ((q (i / 8)).2.getD (i % 8) ⟨0, 0⟩).bits % 16) ∧
      FlagsIssued s t 6 (laneFlags (fun _ => true) fun i => ((q (i / 8)).2.getD (i % 8) ⟨0, 0⟩).flags)) ∧
    IssuesV (.vexp2 m d a) s d 10 p.getLsbD (fun i => fExp2 (envOf ctl) (f32 (lane x i))) ∧
    IssuesV (.vlog2 m d a) s d 10 p.getLsbD (fun i => fLog2 (envOf ctl) (f32 (lane x i))) ∧
    IssuesV (.vrcp m d a) s d 10 p.getLsbD (fun i => fRcp (envOf ctl) (f32 (lane x i))) ∧
    IssuesV (.vrsq m d a) s d 10 p.getLsbD (fun i => fRsq (envOf ctl) (f32 (lane x i))) ∧
    IssuesV (.vcmul m d a b) s d 5 (fun i => p.getLsbD (i / 2 * 2)) (fun i =>
      if i % 2 = 0 then cmulPart (envOf ctl) (lane x i) (lane y i) (lane x (i + 1)) (lane y (i + 1)) true
      else cmulPart (envOf ctl) (lane x (i - 1)) (lane y i) (lane x i) (lane y (i - 1)) false) ∧
    (d.toNat % 2 = 0 → ∃ t k l, exec (.vtwosum m d a b) s = .next t ∧ (t.ctx s.cur.ctx).vreg d.toNat = (s.cx.vreg d.toNat).push k ∧
      (t.ctx s.cur.ctx).vreg (d.toNat + 1) = (s.cx.vreg (d.toNat + 1)).push l ∧ k.land = s.cur.entry + 5 ∧ l.land = s.cur.entry + 5 ∧
      (∀ i < 64, lane k.mask i = (if p.getLsbD i then BitVec.ofInt 32 (-1) else 0) ∧ lane l.mask i = lane k.mask i) ∧
      (∀ i < 64, p.getLsbD i = true → lane k.val i = BitVec.ofNat 32 (twoSum (f32 (lane x i)) (f32 (lane y i)) (envOf ctl)).1.bits ∧
        lane l.val i = BitVec.ofNat 32 (twoSum (f32 (lane x i)) (f32 (lane y i)) (envOf ctl)).2) ∧
      FlagsIssued s t 5 (laneFlags p.getLsbD fun i => (twoSum (f32 (lane x i)) (f32 (lane y i)) (envOf ctl)).1.flags) ∧
      Advances s t ∧ RegFrame s t [] [] [d.toNat, d.toNat + 1] [csrFST])

/-- R170: VCMP writes a predicate whose bit i is 1 exactly when lane i is active and its condition holds, within 2; integer conditions
set no flag. -/
def Obligations.VectorComparesWriteAPredicate : Prop :=
  ∀ (m pd : BitVec 4) (ty : BitVec 2) (c : BitVec 1) (a b : BitVec 5) (s : State) (p : Word) (x y : VReg), s.hasP m p → s.hasV a x →
    s.hasV b y →
    ∃ t z, exec (.vcmp m ty c pd a b) s = .next t ∧ WritesP s t pd 2 z ∧
      (∀ i < 64, z.getLsbD i = (p.getLsbD i &&
        (if ty = 1 then (if c = 0 then decide (lane x i = lane y i) else decide ((lane x i).toInt < (lane y i).toInt))
         else if ty = 2 then (if c = 0 then decide (lane x i = lane y i) else decide ((lane x i).toNat < (lane y i).toNat))
         else (fCmp ty c (lane x i) (lane y i)).1))) ∧
      FlagsIssued s t 2 (laneFlags p.getLsbD fun i => if ty = 1 ∨ ty = 2 then 0 else (fCmp ty c (lane x i) (lane y i)).2) ∧
      Advances s t ∧ RegFrame s t [] [pd.toNat] [] [csrFST]

namespace Sys2Proof.Machine

/-- The value of a magnitude code of a format whose exponent field is unbounded (R94). -/
def codeValue (f : FF) (c : Nat) : ℚ :=
  if c < 2 ^ f.fbits then c * (2 : ℚ) ^ f.quantum else (2 ^ f.fbits + c % 2 ^ f.fbits : Nat) * (2 : ℚ) ^ (f.quantum + (c / 2 ^ f.fbits : Nat) - 1)

end Sys2Proof.Machine

/-- R104, R106: the one rounding of every conversion: of an exact value m * 2^e it gives, under RNE, a code no other code is nearer than,
even at a tie; under RTZ, RUP and RDN the nearest one on the side that the mode names; and it says inexact exactly when the code's value
is another. -/
def Obligations.RoundingIsCorrect : Prop :=
  ∀ (f : FF) (rm : BitVec 2) (neg : Bool) (m : Nat) (e : Int),
    let r := f.round rm neg m e
    let x : ℚ := m * (2 : ℚ) ^ e
    (r.2 = true ↔ codeValue f r.1 ≠ x) ∧
    (rm = 0 → (∀ c, |codeValue f r.1 - x| ≤ |codeValue f c - x|) ∧
      (∀ c, c ≠ r.1 → |codeValue f r.1 - x| = |codeValue f c - x| → r.1 % 2 = 0)) ∧
    (rm = 1 ∨ (rm = 2 ∧ neg = true) ∨ (rm = 3 ∧ neg = false) → codeValue f r.1 ≤ x ∧ x < codeValue f (r.1 + 1)) ∧
    ((rm = 2 ∧ neg = false) ∨ (rm = 3 ∧ neg = true) → x ≤ codeValue f r.1 ∧ ∀ c, x ≤ codeValue f c → codeValue f r.1 ≤ codeValue f c)

namespace Sys2Proof.Machine

/-- No move of the core and no message of the context is in flight, no error is met, the context is one of the device's 512, its task is not
speculative and has no scratchpad write outstanding. -/
def State.calm (s : State) : Prop :=
  s.cur.ctx < 512 ∧ (∀ m ∈ s.moves, coreOf m.ctx ≠ coreOf s.cur.ctx) ∧ (∀ m ∈ s.msends, m.ctx ≠ s.cur.ctx) ∧ s.struck = none ∧
    s.cx.speculative = false ∧ s.cx.stores = []

/-- The elements of the active lanes of a vector access lie at known places of window w, aligned; w is the base's window where no lane is
active (R55, R179, R181). -/
def State.lanesAt (s : State) (n w : Nat) (p base : Word) (off pa : Nat → Nat) : Prop :=
  (p = 0 → base.toNat / 2 ^ 60 = w) ∧ ∀ i < 64, p.getLsbD i = true →
    homeAt (coreOf s.cur.ctx) (base + BitVec.ofNat 64 (off i)) = some (pa i) ∧ (base + BitVec.ofNat 64 (off i)).toNat % n = 0 ∧
    (base + BitVec.ofNat 64 (off i)).toNat / 2 ^ 60 = w

/-- The lanes of an indexed access lie in the window and region of the base (R180). -/
def lanesInRegion (w : Nat) (p base : Word) (off : Nat → Nat) : Prop :=
  base.toNat / 2 ^ 60 = w ∧ (w = 11 → ∀ i < 64, p.getLsbD i = true →
    (base + BitVec.ofNat 64 (off i)).toNat / 2 ^ 22 % 128 = base.toNat / 2 ^ 22 % 128)

/-- No active lane's element is POISON. -/
def State.cleanLanes (s : State) (p : Word) (pa : Nat → Nat) : Prop := ∀ i < 64, p.getLsbD i = true → tagAt s.tags (pa i) ≠ tagPoison

/-- The state from which a vector access acts: its own where the window is the own core's, else with its slot's results landed. -/
def State.accessFrom (s : State) (w : Nat) : State := if w = 8 then s else s.landSlot

/-- The bytes of an element at pa. -/
def elemBytes (n : Nat) (v : VReg) (pa : Nat → Nat) (i : Nat) : List (Nat × Byte) := (span (pa i) n).zip (leBytes n (lane v i).toNat)

/-- The byte that the last active lane to cover an address stores there. -/
def lastStored (n : Nat) (p : Word) (v : VReg) (pa : Nat → Nat) (a : Nat) : Option Byte :=
  ((List.range 64).reverse.filter fun i => p.getLsbD i).findSome? fun i => ((elemBytes n v pa i).find? fun e => e.1 = a).map (·.2)

/-- The element sizes of VLD and VST (R179). -/
def elemTable : List (BitVec 2 × Nat) := [(0, 4), (1, 2), (2, 1)]

end Sys2Proof.Machine

/-- R179 to R181: VLD and VLDX write the active lanes from the elements at base + n * i, or at base plus lane i of the index register, of
the own-core window within 5 and 8; through the other windows they are interlocked. -/
def Obligations.VectorLoadsReadTheirLanes : Prop :=
  ∀ (m : BitVec 4) (d a b : BitVec 5) (s : State) (w : Nat) (p base : Word) (o : VReg) (pa : Nat → Nat), s.openV d → s.hasP m p →
    s.hasS a base → s.hasV b o → s.calm → s.cleanLanes p pa →
    (∀ e ∈ elemTable, ∀ x : BitVec 1, s.lanesAt e.2 w p base (fun i => e.2 * i) pa →
      IssuesVFrom (.vld m d a x e.1) s (s.accessFrom w) d (if w = 8 then 5 else 0) p.getLsbD p.getLsbD
        fun i => ⟨(loaded e.2 (x = 1) (readNat s.mem (pa i) e.2)).toNat % 2 ^ 32, 0⟩) ∧
    (s.lanesAt 4 w p base (fun i => (lane o i).toNat) pa → lanesInRegion w p base (fun i => (lane o i).toNat) →
      IssuesVFrom (.vldx m d a b) s (s.accessFrom w) d (if w = 8 then 8 else 0) p.getLsbD p.getLsbD
        fun i => ⟨readNat s.mem (pa i) 4, 0⟩)

/-- R179 to R181, R41: VST and VSTX store the low bytes of the active lanes, a later lane over an earlier one: in the own-core window the
write lands exactly at e + 5 or e + 8 and changes no byte before, elsewhere the bytes change at once, and no others. -/
def Obligations.VectorStoresWriteTheirLanes : Prop :=
  ∀ (m : BitVec 4) (d a b : BitVec 5) (s : State) (w : Nat) (p base : Word) (v o : VReg) (pa : Nat → Nat), s.hasP m p → s.hasS a base →
    s.hasV d v → s.hasV b o → s.calm →
    ∀ e ∈ elemTable.map (fun z => (Instr.vst m d a z.1, z.2, 5, fun i => z.2 * i)) ++ [(.vstx m d a b, 4, 8, fun i => (lane o i).toNat)],
      s.lanesAt e.2.1 w p base e.2.2.2 pa → (e.1 = .vstx m d a b → lanesInRegion w p base e.2.2.2) →
      (w = 8 → ∃ t k, exec e.1 s = .next t ∧ (t.ctx s.cur.ctx).stores = [k] ∧ k.slot = s.cur.slot ∧ k.entry = s.cur.entry ∧
        k.land = s.cur.entry + e.2.2.1 ∧ k.landed = false ∧ (∀ x, k.newAt x = lastStored e.2.1 p v pa x) ∧ Advances s t ∧ KeepsDevice s t ∧
        KeepsMemory s t ∧ KeepsTags s t ∧ KeepsRegs s t [] [] [] [] ∧ KeepsUnits s t) ∧
      (w ≠ 8 → ∃ t : State, exec e.1 s = .next t ∧
        (∀ x, byteAt t.mem x = (lastStored e.2.1 p v pa x).getD (byteAt s.mem x)) ∧ KeepsTags s t ∧
        KeepsRegs s.landSlot t [] [] [] [] ∧ KeepsUnits s.landSlot t ∧ Advances s.landSlot t ∧ KeepsRest s t)

namespace Sys2Proof.Machine

/-- The V instructions with the vector registers that each reads or writes (R167 to R180). -/
def vForms (m p : BitVec 4) (ty f : BitVec 2) (k x : BitVec 1) (d a b c : BitVec 5) : List (Instr × List (BitVec 5)) :=
  [(.vadd m ty d a b, [d, a, b]), (.vsub m ty d a b, [d, a, b]), (.vmul m ty d a b, [d, a, b]), (.vfma m ty d a b, [d, a, b]),
   (.vmin m ty d a b, [d, a, b]), (.vmax m ty d a b, [d, a, b]), (.vabs m ty d a, [d, a]), (.vneg m ty d a, [d, a]),
   (.vand m d a b, [d, a, b]), (.vor m d a b, [d, a, b]), (.vxor m d a b, [d, a, b]), (.vshl m d a b, [d, a, b]),
   (.vshr m d a b, [d, a, b]), (.vsar m d a b, [d, a, b]), (.vcmp m ty k p a b, [a, b]), (.vsel m d a b, [d, a, b]),
   (.vcvt m d a c, [d, a]), (.vquant m d a f, [d, a]), (.vdeq m d a f, [d, a]), (.vred m ty d a c, [d, a]), (.vscan m ty d a c, [d, a])] ++
  [(.vexp2 m d a, [d, a]), (.vlog2 m d a, [d, a]), (.vrcp m d a, [d, a]), (.vrsq m d a, [d, a]), (.vsort m ty d a x k, [d, a]),
   (.vperm m d a b, [d, a, b]), (.vbcast m d a, [d]), (.vget ty d a b, [a]), (.viota m d, [d]), (.vmov m d a, [d, a]), (.vpopc m d a, [d, a]),
   (.vcmul m d a b, [d, a, b]), (.vtwosum m d a b, [d, a, b]), (.vld m d a x f, [d]), (.vst m d a f, [d]), (.vldx m d a b, [d, b]),
   (.vstx m d a b, [d, b])]

end Sys2Proof.Machine

/-- R164, R182, R183: VLEND lends a bank to an engine and VRECL takes it back, both from the next entry on; VLEND of a lent bank, or of one with
a result of slot V that R42 does not let slot V see yet or of another slot that no sync bundle covers (R43), and VRECL of a bank that is not lent, raise the lent-bank fault. At an entry at which a bank is lent, every V
or T read or write of its registers raises it too, whatever the mask (of registers with nothing outstanding, which no other fault of the reads
precedes). -/
def Obligations.BanksAreLent : Prop :=
  ∀ (n : BitVec 2) (k : BitVec 1) (s : State), s.cx.lend.length = 4 →
    ((s.cx.bank n.toNat).at s.cur.entry = none → (∀ e ∈ s.cx.v, e.1 / 8 = n.toNat → e.2.pend = [] ∧ e.2.landed = []) →
      ∃ t : State, exec (.vlend n k) s = .next t ∧ ((t.ctx s.cur.ctx).bank n.toNat).at (s.cur.entry + 1) = some (if k = 0 then .ma else .mb) ∧
        ((t.ctx s.cur.ctx).bank n.toNat).at s.cur.entry = none ∧
        (∀ j, j ≠ n.toNat → (t.ctx s.cur.ctx).bank j = s.cx.bank j) ∧ Advances s t ∧ KeepsDevice s t ∧ KeepsMemory s t ∧
        KeepsTags s t ∧ KeepsRegs s t [] [] [] []) ∧
    ((∃ e ∈ s.cx.v, e.1 / 8 = n.toNat ∧ ∃ w ∈ e.2.pend ++ e.2.landed, w.entry ≤ s.cur.entry ∧ (if w.slot = .v then s.cur.entry ≤ w.land
        else ∀ b ∈ s.cx.syncs, w.entry < b → s.cur.entry < b + w.lat)) →
      exec (.vlend n k) s = .next (s.raise (flt 0x07 0 0 0))) ∧
    (∀ e, (s.cx.bank n.toNat).at s.cur.entry = some e →
      (∃ t : State, exec (.vrecl n) s = .next t ∧ ((t.ctx s.cur.ctx).bank n.toNat).at (s.cur.entry + 1) = none ∧
        ((t.ctx s.cur.ctx).bank n.toNat).at s.cur.entry = some e ∧
        (∀ j, j ≠ n.toNat → (t.ctx s.cur.ctx).bank j = s.cx.bank j) ∧ Advances s t ∧ KeepsDevice s t ∧ KeepsMemory s t ∧
        KeepsTags s t ∧ KeepsRegs s t [] [] [] []) ∧
      exec (.vlend n k) s = .next (s.raise (flt 0x07 0 0 0))) ∧
    (∀ (m p g : BitVec 4) (ty f : BitVec 2) (x : BitVec 1) (d a b c : BitVec 5) (u v w : Word), s.hasP m u → s.hasS a v → s.hasS b w →
      (∀ r : BitVec 5, s.openV r → ∃ y, s.hasV r y) →
      (∀ e ∈ vForms m p ty f k x d a b c, (∃ r ∈ e.2, r.toNat / 8 = n.toNat) → (s.cx.bank n.toNat).at s.cur.entry ≠ none →
        exec e.1 s = .next (s.raise (flt 0x07 0 0 0))) ∧
      (s.guard4Is g true → s.cx.supervisor = false → d.toNat / 8 = n.toNat → (s.cx.bank n.toNat).at s.cur.entry ≠ none →
        exec (.trin g d) s = .next (s.raise (flt 0x07 0 0 0)) ∧ exec (.trpop g d) s = .next (s.raise (flt 0x07 0 0 0)))) ∧
    ((s.cx.bank n.toNat).at s.cur.entry = none → exec (.vrecl n) s = .next (s.raise (flt 0x07 0 0 0)))

namespace Sys2Proof.Machine

/-- An M or T syllable of a task in user mode whose guard holds. -/
def State.unitGoes (s : State) (g : BitVec 4) : Prop := s.guard4Is g true ∧ s.cx.supervisor = false

/-- What an M or T syllable leaves as it was: every register but the vector registers listed, tags, the device, and CSRs. -/
def UnitFrame (s t : State) (vd : List Nat) : Prop :=
  Advances s t ∧ KeepsDevice s t ∧ KeepsTags s t ∧ KeepsRegs s t [] [] vd [] ∧ (t.ctx s.cur.ctx).lend = s.cx.lend

end Sys2Proof.Machine

/-- R184 to R186: TRIN, TRCFG and TRCLR take effect within 6, 1 and 1; a landing row goes to the next place of the buffer, which a full
buffer empties first; TRPOP writes, at exactly e + 6, the next column of the buffer as the landings below its entry left it. -/
def Obligations.TransposeUnit : Prop :=
  (∀ (g : BitVec 4) (v : BitVec 5) (r : BitVec 6) (sz : BitVec 2) (s : State) (x : VReg), s.unitGoes g → s.hasV v x →
    (∃ t : State, exec (.trin g v) s = .next t ∧ (t.ctx s.cur.ctx).tu = { s.cx.tu with pend := s.cx.tu.pend ++ [(s.cur.entry + 6, .row x)] } ∧
      UnitFrame s t [] ∧ KeepsMemory s t) ∧
    (∃ t : State, exec (.trcfg g r sz) s = .next t ∧
      (t.ctx s.cur.ctx).tu = { s.cx.tu with pend := s.cx.tu.pend ++ [(s.cur.entry + 1, .config (r.toNat + 1) sz)] } ∧
      UnitFrame s t [] ∧ KeepsMemory s t) ∧
    (∃ t : State, exec (.trclr g) s = .next t ∧ (t.ctx s.cur.ctx).tu = { s.cx.tu with pend := s.cx.tu.pend ++ [(s.cur.entry + 1, .clear)] } ∧
      UnitFrame s t [] ∧ KeepsMemory s t)) ∧
  (∀ (g : BitVec 4) (v : BitVec 5) (s : State), s.unitGoes g → s.openV v → (s.cx.tu.land s.cur.entry).rows ≤ 64 →
    let u := s.cx.tu.land s.cur.entry
    ∃ t k, exec (.trpop g v) s = .next t ∧ (t.ctx s.cur.ctx).vreg v.toNat = (s.cx.vreg v.toNat).push k ∧ k.land = s.cur.entry + 6 ∧
      k.exact = true ∧ k.mask = BitVec.allOnes 2048 ∧
      (∀ i j, i < u.rows → j < u.bits → k.val.getLsbD (u.bits * i + j) = (Sparse.get (0 : VReg) u.buf i).getLsbD (u.bits * u.cc + j)) ∧
      (∀ i, u.bits * u.rows ≤ i → k.val.getLsbD i = false) ∧
      (t.ctx s.cur.ctx).tu = { u with cc := (u.cc + 1) % u.width } ∧ UnitFrame s t [v.toNat] ∧ KeepsMemory s t) ∧
  (∀ (u : TUnit) (v : VReg) (m c : Nat), u.pend = [(m, .row v)] → m < c →
    (u.rc = u.rows → (u.land c).rc = 1 ∧ (u.land c).cc = 0 ∧ (u.land c).buf = [(0, v)]) ∧
    (u.rc ≠ u.rows → (u.land c).rc = u.rc + 1 ∧ (u.land c).cc = u.cc ∧
      ∀ i, Sparse.get (0 : VReg) (u.land c).buf i = if i = u.rc then v else Sparse.get 0 u.buf i) ∧ (u.land c).pend = [])

namespace Sys2Proof.Machine

/-- An M syllable of engine k acts on tile n: it goes, its context's partition holds the tile and no other context's does, CTL reads ctl, no
update of the tile is outstanding, and nothing is outstanding on its scratchpad. -/
def State.tileGoes (s : State) (g : BitVec 4) (n : BitVec 6) (ctl : Word) : Prop :=
  s.unitGoes g ∧ s.hasCsr csrCTL ctl ∧ (partWindow (ctl.extractLsb' 5 3)).1 ≤ n.toNat ∧
    n.toNat < (partWindow (ctl.extractLsb' 5 3)).1 + (partWindow (ctl.extractLsb' 5 3)).2 ∧ s.sharedTile n.toNat = false ∧ (∀ u ∈ s.cx.tiles, u.tile ≠ n.toNat) ∧ s.calm

/-- Element (r, c) of tile n of the context's core. -/
def State.acc (s : State) (n : BitVec 6) (r c : Nat) : Nat := readNat s.mem (tilePA (coreOf s.cur.ctx) n.toNat (4 * (64 * r + c))) 4

/-- The bytes of tile n of the context's core. -/
def State.accBytes (s : State) (n : BitVec 6) : List Nat := span (tilePA (coreOf s.cur.ctx) n.toNat 0) 16384

/-- An M syllable of engine e updates tile n with bound b: no byte outside the tile changes, the update is noted for R240 (as long as
some slot has not passed it), and the syllable is complete once its context has passed its entry by b (R245). -/
def TileFrame (s t : State) (n : BitVec 6) (e : Eng) (b : Nat) : Prop :=
  UnitFrame s t [] ∧ (∀ a, a ∉ s.accBytes n → byteAt t.mem a = byteAt s.mem a) ∧
    (s.cx.low ≤ s.cur.entry → ∃ u ∈ (t.ctx s.cur.ctx).tiles, u.tile = n.toNat ∧ u.eng = e ∧ u.entry = s.cur.entry ∧ u.bound = b) ∧
    (s.cur.entry, s.cur.entry + b) ∈ (t.ctx s.cur.ctx).mdone

/-- The shape register r that a syllable uses, after the exchange when w is 1, and the exchange that issues with it (R135). -/
def State.usesShape (s : State) (r : Nat) (w : BitVec 1) (v : ShapeBits) : Prop :=
  ∃ x y, s.cx.shapeActive r = Cell.of x ∧ s.cx.shapeShadow r = Cell.of y ∧ v = if w = 1 then y else x

/-- An exchange has issued with w = 1, and no shape register has changed with w = 0. -/
def Exchanged (s t : State) (r : Nat) (w : BitVec 1) : Prop :=
  if w = 1 then ((t.ctx s.cur.ctx).shapeActive r).settle.base = (s.cx.shapeShadow r).settle.base ∧
      ((t.ctx s.cur.ctx).shapeShadow r).settle.base = (s.cx.shapeActive r).settle.base
    else (t.ctx s.cur.ctx).shapeActive r = s.cx.shapeActive r ∧ (t.ctx s.cur.ctx).shapeShadow r = s.cx.shapeShadow r

/-- The last byte written at an address by a list of writes. -/
def storedLast (l : List (Nat × Byte)) (a : Nat) : Option Byte := (l.reverse.find? fun e => e.1 = a).map (·.2)

end Sys2Proof.Machine

/-- R237, R238, R242, R243: MZERO clears a tile; MFILL loads it from the scratchpad; MDRAIN writes the tile's converted elements to the
scratchpad, landing exactly at e + 16, and with z = 1 clears it (that of two elements with one destination the later in row order stays is the model's choice,
log 78); MFMT sets the engine's pair from c + 2 on and owes an MNOP; MNOP only
issues. -/
def Obligations.TilesAreZeroedFilledAndDrained : Prop :=
  ∀ (g : BitVec 4) (w z k : BitVec 1) (n : BitVec 6) (h : BitVec 2) (df fa fb : BitVec 3) (s : State) (ctl : Word) (v : ShapeBits),
    s.tileGoes g n ctl → s.usesShape (engShape k h) w v → s.disp.loop = none →
    (∃ t : State, exec (.mzero g n k) s = .next t ∧ TileFrame s t n (engOf k) 1 ∧ ∀ r < 64, ∀ c < 64, t.acc n r c = 0) ∧
    (∀ offs, placeTile v 0 4 = .ok offs → (∀ o ∈ offs, tagAt s.tags (spadPA (coreOf s.cur.ctx) o) ≠ tagPoison) →
      ∃ t : State, exec (.mfill g w n h k) s = .next t ∧ TileFrame s t n (engOf k) 16 ∧ Exchanged s t (engShape k h) w ∧
        ∀ r < 64, ∀ c < 64, t.acc n r c = readNat s.mem (spadPA (coreOf s.cur.ctx) (offs.getD (64 * r + c) 0)) 4) ∧
    (∀ offs, placeTile v 0 (drainFmt df).2 = .ok offs →
      ∃ t j, exec (.mdrain g w n h z k df) s = .next t ∧ (t.ctx s.cur.ctx).stores = [j] ∧ j.land = s.cur.entry + 16 ∧ j.landed = false ∧
        (∀ a, j.newAt a = storedLast ((List.range 4096).flatMap fun i =>
          (span (spadPA (coreOf s.cur.ctx) (offs.getD i 0)) (drainFmt df).2).zip
            (leBytes (drainFmt df).2 (drainElem df (envOf ctl) (BitVec.ofNat 32 (s.acc n (i / 64) (i % 64)))))) a) ∧
        Exchanged s t (engShape k h) w ∧ UnitFrame s t [] ∧
        (z = 0 → KeepsMemory s t) ∧ (z = 1 → TileFrame s t n (engOf k) 16 ∧ ∀ r < 64, ∀ c < 64, t.acc n r c = 0)) ∧
    ((s.cx.fmt (engOf k)).lastPush = none → ∃ t : State, exec (.mfmt g fa fb k) s = .next t ∧ UnitFrame s t [] ∧ KeepsMemory s t ∧
      ((t.ctx s.cur.ctx).fmt (engOf k)).at (s.cur.entry + 1) = (s.cx.fmt (engOf k)).at (s.cur.entry + 1) ∧
      ((t.ctx s.cur.ctx).fmt (engOf k)).at (s.cur.entry + 2) = (mfmtOf fa, mfmtOf fb) ∧
      ((t.ctx s.cur.ctx).fmt (engOf k)).owed = some (s.cur.entry + 1)) ∧
    (∃ t : State, exec (.mnop g k) s = .next t ∧ Advances s t ∧ RegFrame s t [] [] [] [])

namespace Sys2Proof.Machine

/-- Line l of an operand whose lines lie at offsets of the own scratchpad, as a number. -/
def State.lineAt (s : State) (offs : List Nat) (len l : Nat) : Nat := readNat s.mem (spadPA (coreOf s.cur.ctx) (offs.getD l 0)) len

/-- No line of an operand is POISON. -/
def State.cleanLines (s : State) (offs : List Nat) (len : Nat) : Prop :=
  ∀ o ∈ offs, ∀ j < len, tagAt s.tags (spadPA (coreOf s.cur.ctx) o + j) ≠ tagPoison

/-- An INT8 element of a line. -/
def int8At (line i : Nat) : Int := (BitVec.ofNat 8 (line / 2 ^ (8 * i))).toInt

end Sys2Proof.Machine

/-- R110 to R112, R228, R231 to R233: MMA and MMAV update every element of their tile with the sum of products of a line of A and a line of
B, which lie in the scratchpad or, for MMAV's A, in a bank lent to the engine; MCMA does so for complex elements. With INT8 operands
the sum is exact, modulo 2^32 (R111); else the element is the one rounding of R110, by the model's definition of it. -/
def Obligations.PushesAccumulate : Prop :=
  ∀ (g : BitVec 4) (w z v k : BitVec 1) (n : BitVec 6) (a b : BitVec 2) (p : BitVec 3) (s : State) (ctl : Word) (va vb : ShapeBits)
    (buf : ScaleBuf) (oa ob : List Nat) (pair : MFmt × MFmt), s.tileGoes g n ctl → s.disp.loop = none →
    (s.cx.fmt (engOf k)).at s.cur.entry = pair → s.cx.scale (engOf k) = Cell.of buf → s.usesShape (engShape k b) w vb →
    (v = 1 → (pairScales pair).1 = true ∨ (pairScales pair).2 = true) →
    (a ≠ b → s.usesShape (engShape k a) w va →
      placeLines va 0 (lineLen pair.1 (pairDepth pair)) 64 = .ok oa → placeLines vb 0 (lineLen pair.2 (pairDepth pair)) 64 = .ok ob →
      bankCheck oa (lineLen pair.1 (pairDepth pair)) ob (lineLen pair.2 (pairDepth pair)) = .ok () →
      s.cleanLines oa (lineLen pair.1 (pairDepth pair)) → s.cleanLines ob (lineLen pair.2 (pairDepth pair)) →
      ∃ t : State, exec (.mma g w n a b z v k p) s = .next t ∧ TileFrame s t n (engOf k) 24 ∧ Exchanged s t (engShape k a) w ∧ Exchanged s t (engShape k b) w ∧
        (pair = (.int8, .int8) → v = 0 → ∀ r < 64, ∀ c < 64, (t.acc n r c : Int) =
          ((if z = 1 then 0 else (s.acc n r c : Int)) + (if p = 1 then -1 else 1) *
            ((List.range 16).map fun i => int8At (s.lineAt oa 16 r) i * int8At (s.lineAt ob 16 c) i).sum) % 2 ^ 32) ∧
        t.tile (coreOf s.cur.ctx) n.toNat = pushFun pair (ctl.getLsbD 0) (v = 1) (z = 1) (p = 1) buf
          ((List.range 64).map (s.lineAt oa (lineLen pair.1 (pairDepth pair)))) ((List.range 64).map (s.lineAt ob (lineLen pair.2 (pairDepth pair))))
          (s.tile (coreOf s.cur.ctx) n.toNat)) ∧
    ((s.cx.bank a.toNat).at s.cur.entry = some (engOf k) → placeLines vb 0 (lineLen pair.2 (pairDepth pair)) 64 = .ok ob →
      s.cleanLines ob (lineLen pair.2 (pairDepth pair)) →
      ∃ t : State, exec (.mmav g w n a b z v k p) s = .next t ∧ TileFrame s t n (engOf k) 24 ∧ Exchanged s t (engShape k b) w ∧
        t.tile (coreOf s.cur.ctx) n.toNat = pushFun pair (ctl.getLsbD 0) (v = 1) (z = 1) (p = 1) buf
          ((List.range 64).map (bankLine s.cx a.toNat (lineLen pair.1 (pairDepth pair))))
          ((List.range 64).map (s.lineAt ob (lineLen pair.2 (pairDepth pair)))) (s.tile (coreOf s.cur.ctx) n.toNat)) ∧
    (a ≠ b → pair = (.fp32, .fp32) → s.usesShape (engShape k a) w va → placeLines va 0 16 32 = .ok oa → placeLines vb 0 16 32 = .ok ob →
      bankCheck oa 16 ob 16 = .ok () → s.cleanLines oa 16 → s.cleanLines ob 16 →
      ∃ t : State, exec (.mcma g w n a b z k p) s = .next t ∧ TileFrame s t n (engOf k) 24 ∧ Exchanged s t (engShape k a) w ∧ Exchanged s t (engShape k b) w ∧
        t.tile (coreOf s.cur.ctx) n.toNat = mcmaTile (z = 1) (p = 1)
          (operandLines .fp32 false 4 none ((List.range 32).map (s.lineAt oa 16)))
          (operandLines .fp32 false 4 none ((List.range 32).map (s.lineAt ob 16))) (s.tile (coreOf s.cur.ctx) n.toNat))

namespace Sys2Proof.Machine

/-- An X syllable with guard g and registers a, b, whose shape register is h after an exchange w, reaches its checks with these operands
(R207): its guard holds, no earlier TLDF holds its queue, its operands are settled, the footprint is within its limit, and its task is
not speculative. -/
def State.moveGoes (s : State) (g : BitVec 4) (w : BitVec 1) (h : BitVec 2) (a b : BitVec 5) (va vb : Word) (v : ShapeBits) : Prop :=
  s.guard4Is g true ∧ s.waitingTldf s.cur.ctx s.cx.uid = none ∧ s.hasS a va ∧ s.hasS b vb ∧ s.usesShape (12 + h.toNat) w v ∧
    shCount v * shEs v ≤ 2 ^ 20 ∧ s.cx.speculative = false

/-- No byte of an end lies in a Fold range of another device (R196). -/
def State.plainEnds (s : State) (l : List PByte) : Prop := ∀ d o, PByte.remote d o ∈ l → s.redwin d o = none

/-- A move of a syllable has issued: it is in flight with these ends, its completion word is EMPTY, the objects that its handle checks
admit count it, its status is outstanding, no byte of memory has changed, and of the registers only the status predicate and, with w = 1,
the exchanged shape registers (R208-R210, R332). -/
def MoveIssued (s t : State) (m : Move) (h : BitVec 2) (w : BitVec 1) (p : BitVec 4) : Prop :=
  t.moves = s.moves ++ [m] ∧ m.id = s.nextId ∧ t.nextId = s.nextId + 1 ∧ m.ctx = s.cur.ctx ∧ m.uid = s.cx.uid ∧ m.entry = s.cur.entry ∧
    m.h = h.toNat ∧ (∀ a, tagAt t.tags a = if a / 8 = complPA s.cur.ctx h.toNat / 8 then tagEmpty else tagAt s.tags a) ∧ KeepsMemory s t ∧
    Exchanged s t (12 + h.toNat) w ∧ KeepsRegs s t [] [p.toNat] [] [] ∧ Advances s t ∧
    (p ≠ 0 → ∃ k, (t.ctx s.cur.ctx).preg p.toNat = (s.cx.preg p.toNat).push k ∧ k.land = statusLand m.id m.h) ∧
    (∀ d j o, s.obj d j = some o → (t.obj d j).map Obj.inflight = some (o.inflight + m.objs.count (d, j)))

/-- The two ends of a plain copy by kind: which windows each may name and which of the two the shape strides (R208). -/
def copyTable : List ((BitVec 4 → BitVec 1 → BitVec 2 → BitVec 5 → BitVec 5 → BitVec 4 → Instr) × MoveKind × Accept × Accept × Bool) :=
  [(.tld, .tld, .far, .near, true), (.tst, .tst, .near, .far, false), (.tmov, .tmov, .any, .any, true)]

end Sys2Proof.Machine

/-- R207 to R210: TLD, TST and TMOV whose operands pass their checks issue a move from the bytes of their source end to the bytes of their
destination end, in element order. -/
def Obligations.CopiesIssue : Prop :=
  ∀ e ∈ copyTable, ∀ (g : BitVec 4) (w : BitVec 1) (h : BitVec 2) (a b : BitVec 5) (p : BitVec 4) (s : State) (va vb : Word) (v : ShapeBits)
    (src dst : EndPt), s.cur.ctx < 512 → s.moveGoes g w h a b va vb v →
    s.endOf s.cur.ctx s.cx.uid va e.2.2.1 false (some .read) (s.foot g v (shEs v)) e.2.2.2.2 true = .ok src →
    s.endOf s.cur.ctx s.cx.uid vb e.2.2.2.1 true (some .write) (s.foot g v (shEs v)) (!e.2.2.2.2) true = .ok dst →
    s.plainEnds (src.bytes ++ dst.bytes) → s.held s.cur.ctx (endBytes src.bytes ++ endBytes dst.bytes) = false →
    s.scored (coreOf s.cur.ctx) ≤ 30 →
    ∃ (t : State) (m : Move), exec (e.1 g w h a b p) s = .next t ∧ MoveIssued s t m h w p ∧ m.kind = e.2.1 ∧ m.src = src.bytes ∧ m.dst = dst.bytes ∧
      m.es = shEs v ∧ m.n = shCount v ∧ m.gone = (src.gone || dst.gone)

/-- R204 to R209: the other tile moves issue. TMC copies to its offset in every named core; TLDF claims its range at the consumer cursor C,
which advances at once; TSTF reserves its range in the stream; TACC names one Fold word for each element. -/
def Obligations.FlowFoldAndMulticastMovesIssue : Prop :=
  ∀ (g : BitVec 4) (w : BitVec 1) (h : BitVec 2) (a b : BitVec 5) (p : BitVec 4) (s : State) (va vb : Word) (v : ShapeBits)
    (src dst : EndPt), s.cur.ctx < 512 → s.moveGoes g w h a b va vb v → s.moves = [] →
    let f := s.foot g v (shEs v)
    (s.endOf s.cur.ctx s.cx.uid va .any false (some .read) f true false = .ok src → multicastEnd f vb = .ok dst → s.plainEnds src.bytes →
      ∃ (t : State) (m : Move), exec (.tmc g w h a b p) s = .next t ∧ MoveIssued s t m h w p ∧ m.kind = .tmc ∧ m.src = src.bytes ∧ m.dst = dst.bytes ∧ m.mask = vb) ∧
    (∀ d j o off tm, s.endOf s.cur.ctx s.cx.uid va .far false (some .flowRead) f false true = .ok src →
      s.endOf s.cur.ctx s.cx.uid vb .near true (some .write) f true true = .ok dst → s.flowOf src va = .ok (some (d, j, o, off)) →
      s.plainEnds src.bytes → o.stream = some tm → o.brk = false → f.es * f.n % o.flowSize = 0 → off % o.flowSize = 0 → off = tm.c →
      s.obj d j = some o →
      ∃ (t : State) (m : Move), exec (.tldf g w h a b p) s = .next t ∧ MoveIssued s t m h w p ∧ m.kind = .tldf ∧ m.flow = some ⟨d, j, off, f.es * f.n⟩ ∧
        m.dst = dst.bytes ∧ (t.obj d j).bind Obj.stream = some (tm.claim off (f.es * f.n))) ∧
    (∀ d j o off tm off', s.endOf s.cur.ctx s.cx.uid va .near false (some .read) f true true = .ok src →
      s.flowDest s.cur.ctx s.cx.uid vb f = .ok dst → (∀ k ∈ s.eoss, k.ctx ≠ s.cur.ctx) →
      s.flowOf dst vb = .ok (some (d, j, o, off)) → s.plainEnds dst.bytes → o.stream = some tm → o.brk = false →
      f.es * f.n % o.flowSize = 0 → off % o.flowSize = 0 → (tm.append = true → off = o.flowStart) →
      o.reserve tm s.cx.uid off (f.es * f.n) = .at off' → s.obj d j = some o →
      ∃ (t : State) (m : Move), exec (.tstf g w h a b p) s = .next t ∧ MoveIssued s t m h w p ∧ m.kind = .tstf ∧ m.flow = some ⟨d, j, off', f.es * f.n⟩ ∧
        m.src = src.bytes ∧ m.dst = (if vb.toNat / 2 ^ 60 = 0 ∧ tm.append = false then dst.bytes else s.flowBytes ⟨d, j, off', f.es * f.n⟩) ∧
        (t.obj d j).bind Obj.stream = some (tm.take s.cx.uid off' (f.es * f.n))) ∧
    (∀ folds, s.endOf s.cur.ctx s.cx.uid va .near false (some .read) f false true = .ok src →
      s.foldEnd s.cur.ctx s.cx.uid vb f = .ok (dst, folds) →
      ∃ (t : State) (m : Move), exec (.tacc g w h a b p) s = .next t ∧ MoveIssued s t m h w p ∧ m.kind = .tacc ∧ m.src = src.bytes ∧ m.dst = dst.bytes ∧ m.folds = folds)

namespace Sys2Proof.Machine

/-- Word 0 of the completion entry of shape register h of context c: the count and the error flag (R210). -/
def State.complCount (s : State) (c h : Nat) : Nat := readNat s.mem (complPA c h) 8 / 2 ^ 32

/-- A move in flight of a bundle of its task, which commits nothing, waits for nothing, and no invalidation waits for it. -/
def State.mayMove (s : State) (m : Move) : Prop :=
  s.moves.find? (fun o => o.id = m.id) = some m ∧ s.moveReady m = true ∧ m.ctx < 512 ∧ m.entry ≠ 0 ∧ s.invals = [] ∧ s.commits m.id = false

/-- Such a move has its data to move from these bytes: nothing of it is gone, broken, dropped or under way, no source byte is POISON, and no
scratchpad write is outstanding. -/
def State.movesFrom (s : State) (m : Move) (sp : List Nat) : Prop :=
  s.mayMove m ∧ m.gone = false ∧ m.broken = false ∧ m.quiet = false ∧ (∀ e ∈ m.ends, ∀ o, s.obj e.1 e.2 = some o → o.brk = false) ∧ m.data = none ∧
    m.sent = false ∧ m.passed = 0 ∧ m.src = sp.map PByte.at ∧ sp.length = m.es * m.n ∧ 0 < m.es ∧ m.h < 4 ∧ s.poisoned sp = false ∧
    ∀ c, (s.ctx c).stores = []

/-- A byte outside the three words of a move's completion entry. -/
def Move.offEntry (m : Move) (a : Nat) : Prop := a < complPA m.ctx m.h ∨ complPA m.ctx m.h + 24 ≤ a

/-- A move has completed: its completion count has risen by one, the completion word is FULL once no other move of the entry is in flight, the status
write that its syllable left outstanding has a value, and the move is gone (R208, R210). -/
def MoveReported (s t : State) (m : Move) (v : Word) : Prop :=
  t.complCount m.ctx m.h = (s.complCount m.ctx m.h + 1) % 2 ^ 32 ∧
    ((∀ o ∈ s.moves, o.ctx = m.ctx → o.h = m.h → o.id = m.id) → tagAt t.tags (complPA m.ctx m.h) = tagFull) ∧
    ((s.ctx m.ctx).uid = m.uid → (∀ k ∈ (s.ctx m.ctx).task, k.dead = false) → ∀ r, ∀ k ∈ ((s.ctx m.ctx).preg r).pend, k.slot = .x →
      k.land = statusLand m.id m.h → ∃ k' ∈ ((t.ctx m.ctx).preg r).pend, k'.slot = .x ∧ k'.land = k.land ∧ ∀ x, k'.apply x = v) ∧
    t.moves = s.moves.filter fun o => o.id ≠ m.id

/-- Element i of a move's source as a number. -/
def State.sourceElem (s : State) (es : Nat) (sp : List Nat) (i : Nat) : Nat :=
  leNat ((List.range es).map fun j => byteAt s.mem (sp.getD (es * i + j) 0))

end Sys2Proof.Machine

/-- R204 to R210, R212, R272: MOVE_COMPLETION of a move that waits for nothing older and meets no error completes it. A copy between scratchpads, stores
and HBM gives every destination byte the value that its source byte had; TMC does so at its offsets in every named core; TLDF takes the
elements that are published, and zeros for those past the end of an ended stream, where its status is zero and the cursor stands at the final P; TSTF
writes its range and publishes it; TACC updates its Fold words, one an element. Nothing else of memory changes but the completion entry. TTAG tags its
words; PREQ completes as its pages answer. -/
def Obligations.MovesComplete : Prop :=
  ∀ (s : State) (m : Move) (sp dp : List Nat),
    (s.movesFrom m sp → m.dst = dp.map PByte.at → dp.length = m.es * m.n → dp.Nodup → (∀ a ∈ dp, m.offEntry a) →
      ((m.kind = .tld ∨ m.kind = .tst ∨ m.kind = .tmov) →
        ∃ t : State, exec (.moveCompletion m.id 0 0) s = .next t ∧ (∀ i < dp.length, byteAt t.mem (dp.getD i 0) = byteAt s.mem (sp.getD i 0)) ∧
          (∀ a, a ∉ dp → m.offEntry a → byteAt t.mem a = byteAt s.mem a) ∧ MoveReported s t m (BitVec.allOnes 64)) ∧
      (m.kind = .tmc → (∀ o ∈ dp, o < 0x3FFE00) →
        ∃ t : State, exec (.moveCompletion m.id 0 0) s = .next t ∧
          (∀ q, q / 64 = dieOf m.ctx → m.mask.getLsbD (q % 64) = true → ∀ i < dp.length, byteAt t.mem (spadPA q (dp.getD i 0)) = byteAt s.mem (sp.getD i 0)) ∧
          (∀ a, (∀ q, q / 64 = dieOf m.ctx → m.mask.getLsbD (q % 64) = true → ∀ o ∈ dp, a ≠ spadPA q o) → m.offEntry a → byteAt t.mem a = byteAt s.mem a) ∧
          MoveReported s t m (BitVec.allOnes 64)) ∧
      (∀ f o tm k, m.kind = .tldf → m.flow = some f → f.len = m.es * m.n → s.obj f.die f.slot = some o → o.brk = false → o.stream = some tm →
        tm.ready f.off f.len = some k → k ≤ f.len →
        ∃ t : State, exec (.moveCompletion m.id 0 0) s = .next t ∧
          (∀ i < dp.length, byteAt t.mem (dp.getD i 0) = if k = f.len ∨ m.es * (i / m.es + 1) ≤ k then byteAt s.mem (sp.getD i 0) else 0) ∧
          (∀ a, a ∉ dp → m.offEntry a → byteAt t.mem a = byteAt s.mem a) ∧
          (t.obj f.die f.slot).bind Obj.stream = some (if k = f.len then tm else { tm with c := tm.final.getD tm.c }) ∧
          MoveReported s t m (outcome (k = f.len))) ∧
      (∀ f o tm, m.kind = .tstf → m.flow = some f → s.obj f.die f.slot = some o → o.stream = some tm →
        (∀ p ∈ (s.core (coreOf m.ctx)).replay, p.kind ≠ .flow f) →
        ∃ t : State, exec (.moveCompletion m.id 0 0) s = .next t ∧ (∀ i < dp.length, byteAt t.mem (dp.getD i 0) = byteAt s.mem (sp.getD i 0)) ∧
          (∀ a, a ∉ dp → m.offEntry a → byteAt t.mem a = byteAt s.mem a) ∧
          (t.obj f.die f.slot).bind Obj.stream = some (tm.publish f.off f.len) ∧ MoveReported s t m (BitVec.allOnes 64))) ∧
    (s.movesFrom m sp → m.kind = .tacc → m.dst = dp.map PByte.at → dp.length = m.n → m.folds.length = m.n →
      let word (i : Nat) : List Nat := span (dp.getD i 0) (foldWord (m.folds.getD i (0, 0)).1)
      (∀ i < m.n, ∀ a ∈ word i, m.offEntry a) → (∀ i < m.n, ∀ j < m.n, i ≠ j → ∀ a ∈ word i, a ∉ word j) →
      ∃ t : State, exec (.moveCompletion m.id 0 0) s = .next t ∧
        (∀ i < m.n, ∀ op sc, m.folds[i]? = some (op, sc) → readNat t.mem (dp.getD i 0) (foldWord op) =
          (foldStep op sc (BitVec.ofNat 64 (readNat s.mem (dp.getD i 0) (foldWord op))) (BitVec.ofNat 64 (s.sourceElem m.es sp i))).1.toNat % 2 ^ (8 * foldWord op)) ∧
        (∀ a, (∀ i < m.n, a ∉ word i) → m.offEntry a → byteAt t.mem a = byteAt s.mem a) ∧ MoveReported s t m (BitVec.allOnes 64)) ∧
    (s.mayMove m → m.kind = .ttag → 4 ≤ m.h → m.dst = dp.map PByte.at → (∀ a ∈ dp, inStore a = true ∧ a / 8 * 8 ∈ dp) →
      ∃ t : State, exec (.moveCompletion m.id 0 0) s = .next t ∧ KeepsMemory s t ∧
        (∀ a, tagAt t.tags a = if a / 8 ∈ dp.map (· / 8) then m.code else tagAt s.tags a) ∧ t.moves = s.moves.filter fun o => o.id ≠ m.id) ∧
    (s.mayMove m → m.kind = .preq → m.h = 4 → ∃ t : State, exec (.moveCompletion m.id 0 0) s = .next t ∧ KeepsMemory s t ∧ KeepsTags s t ∧
      t.moves = s.moves.filter fun o => o.id ≠ m.id)

/-- R217 to R219, R234, R235: SLD writes bytes of the own scratchpad into a scale buffer at exactly e + 6; TTAG issues a move that tags a
range; PREQ issues one page request for every page of its range (those that the die's 512 leave room for at once) and is in flight until they are
answered. -/
def Obligations.ScaleLoadsTagRangesAndPageRequestsIssue : Prop :=
  ∀ (g : BitVec 4) (w n : BitVec 1) (h : BitVec 2) (a b : BitVec 5) (p : BitVec 4) (s : State) (va vb : Word) (v : ShapeBits) (pa : Nat → Nat),
    s.moveGoes g w h a b va vb v → s.calm → s.disp.loop = none →
    (shCount v ≤ 512 → va.toNat / 2 ^ 22 = 2 ^ 41 → (∀ i < shCount v, homeAt (coreOf s.cur.ctx) (va + BitVec.ofInt 64 ((shBase v).toInt + footTerm v i)) = some (pa i) ∧
        (va + BitVec.ofInt 64 ((shBase v).toInt + footTerm v i)).toNat / 2 ^ 60 = 8 ∧ tagAt s.tags (pa i) ≠ tagPoison) →
      ∃ (t : State) (k : Write 4096), exec (.sld g w h a n) s = .next t ∧
        (if n = 0 then (t.ctx s.cur.ctx).scaleA = s.cx.scaleA.push k ∧ (t.ctx s.cur.ctx).scaleB = s.cx.scaleB
          else (t.ctx s.cur.ctx).scaleB = s.cx.scaleB.push k ∧ (t.ctx s.cur.ctx).scaleA = s.cx.scaleA) ∧
        k.land = s.cur.entry + 6 ∧ k.exact = true ∧ k.mask = BitVec.ofNat 4096 (2 ^ (8 * shCount v) - 1) ∧
        (∀ i < shCount v, k.val.extractLsb' (8 * i) 8 = byteAt s.mem (pa i)) ∧ Exchanged s t (12 + h.toNat) w ∧ Advances s t ∧
        KeepsDevice s t ∧ KeepsMemory s t ∧ KeepsTags s t ∧ KeepsRegs s t [] [] [] []) ∧
    (∀ q, homeAt (coreOf s.cur.ctx) va = some q → va.toNat % 8 = 0 → vb.toNat % 8 = 0 → 8 ≤ vb.toNat → vb.toNat ≤ 2 ^ 20 →
      va.toNat % 2 ^ 22 + vb.toNat ≤ 2 ^ 22 →
      ∃ (t : State) (m : Move), exec (.ttag g h a b) s = .next t ∧ t.moves = s.moves ++ [m] ∧ m.kind = .ttag ∧ m.code = h ∧
        m.dst = (span q vb.toNat).map PByte.at ∧ Advances s t ∧ KeepsMemory s t ∧ KeepsTags s t ∧ KeepsRegs s t [] [] [] []) ∧
    (va.toNat + vb.toNat ≤ 2 ^ 57 → 1 ≤ vb.toNat → vb.toNat ≤ 2 ^ 30 →
      ∃ (t : State) (m : Move), exec (.preq g a b p) s = .next t ∧ t.moves = s.moves ++ [m] ∧ m.kind = .preq ∧
        (∀ x, va.toNat ≤ x → x < va.toNat + vb.toNat → (x / 4096, PageWait.host) ∈ m.pages ∧
          ((s.die (dieOf s.cur.ctx)).pri.length + vb.toNat / 4096 + 2 ≤ 512 →
            (⟨s.cx.pasid, x / 4096⟩ : PageReq) ∈ (t.die (dieOf s.cur.ctx)).pri)) ∧
        Advances s t ∧ KeepsMemory s t ∧ KeepsTags s t ∧ KeepsRegs s t [] [p.toNat] [] [])

/-- R211: TWAIT of a completion word that is FULL writes its predicate: all ones exactly when the word's error and gone bits are clear, and the
statuses of the moves that it covers land at its entry; it waits as a block event while the word is not FULL, and TWAIT_WAKE makes it act again. -/
def Obligations.TwaitReportsTheCompletionWord : Prop :=
  (∀ (g : BitVec 4) (a : BitVec 5) (p : BitVec 4) (s : State) (va : Word), s.guard4Is g true → s.hasS a va → s.calm →
    (∀ m ∈ s.moves, m.ctx ≠ s.cur.ctx) → va.toNat / 2 ^ 22 = 2 ^ 41 → va.toNat % 8 = 0 →
    let pa := spadPA (coreOf s.cur.ctx) (va.toNat % 2 ^ 22)
    (tagAt s.tags pa = tagFull → ∃ t c k, exec (.twait g a p) s = .next t ∧
      (p ≠ 0 → (t.ctx s.cur.ctx).preg p.toNat = Cell.push c k ∧ k.land = s.cur.entry ∧
        k.val = outcome (!(readNat s.mem pa 8).testBit 0 && !(readNat s.mem pa 8).testBit 2)) ∧
      Advances s t ∧ KeepsDevice s t ∧ KeepsMemory s t ∧ KeepsTags s t ∧ KeepsUnits s.landSlot t ∧
      (∀ r, (t.ctx s.cur.ctx).sreg r = s.landSlot.cx.sreg r) ∧
      (∀ r, ∀ h < 4, va.toNat = 2 ^ 63 + complOff s.cur.ctx h → ∀ z ∈ (s.cx.preg r).pend, z.slot = .x → z.mask ≠ 0 → statusBase ≤ z.land →
        z.land % 8 = h → ∃ z' ∈ ((t.ctx s.cur.ctx).preg r).pend, z'.land = s.cur.entry ∧ z'.mask = z.mask ∧ z'.val = z.val)) ∧
    (tagAt s.tags pa ≠ tagFull → exec (.twait g a p) s = .next (s.landSlot.blockWith .twait [va]))) ∧
  (∀ (g : BitVec 4) (a : BitVec 5) (p : BitVec 4) (c : Nat) (u : State) (b : Disp) (q : Queued) (va : Word), q.syl.instr = .twait g a p →
    (u.atSyl c b q).guard4Is g true → (u.atSyl c b q).hasS a va → q.ops = [va] →
    u.WakesAs c .twait (.twaitWake c) b q)

namespace Sys2Proof.Machine

/-- Word A of a barrier after an arrival (R262, R265): scope in [63:61], phase in [60:32], arrivals still to come in [31:0]; count is the
count of word B. -/
def afterArrival (w count : Nat) : Nat :=
  if (w + 2 ^ 32 - 1) % 2 ^ 32 = 0 then w / 2 ^ 61 * 2 ^ 61 + (w / 2 ^ 32 + 1) % 2 ^ 29 * 2 ^ 32 + count % 2 ^ 32
  else w / 2 ^ 32 * 2 ^ 32 + (w + 2 ^ 32 - 1) % 2 ^ 32

/-- No syllable of any context and no copy waits on the words of a barrier. -/
def State.unwaited (s : State) (pa : Nat) : Prop := s.waitless pa ∧ s.waitless (pa + 8)

/-- The phase of a barrier word. -/
def phaseOf (w : Nat) : Nat := w / 2 ^ 32 % 2 ^ 29

end Sys2Proof.Machine

/-- R261 to R267 (BARI of a word tagged POISON, and ARRIVE and WAITB of words that something other than BARI wrote, are the model's choice, log 72; so is
the phase for which a waiting WAITB registers its task, log 98): FENCE retires once the context has no access outstanding; BARI arms a barrier and ends no wait on its words; ARRIVE counts one arrival, and the last one
of a phase starts the next; WAITB goes on, with p zero, once the phase of its context's arrival has ended, else it waits, and WAITB_WAKE
makes it act again. JOIN of a FULL word that holds zero goes on with p zero; of a BROKEN word with p all ones and FST.BRK; else it waits, and
JOIN_WAKE makes it act again. -/
def Obligations.BarriersAndJoinWords : Prop :=
  ((∀ (a b : BitVec 5) (r : BitVec 1) (p : BitVec 4) (sc : BitVec 3) (s : State) (va vb : Word) (pa : Nat), s.hasS a va → s.hasS b vb → s.calm →
    s.released → homeAt (coreOf s.cur.ctx) va = some pa → va.toNat % 16 = 0 →
    (∃ t : State, exec (.fence sc) s = .next t ∧ Advances s t ∧ RegFrame s.landSlot t [] [] [] []) ∧
    (vb.toNat % 2 ^ 32 ≠ 0 → homeLevel pa ≤ vb.toNat / 2 ^ 32 → vb.toNat / 2 ^ 32 ≤ 4 → ∃ t : State, exec (.bari a b) s = .next t ∧
      readNat t.mem pa 8 = vb.toNat / 2 ^ 32 * 2 ^ 61 + vb.toNat % 2 ^ 32 ∧ readNat t.mem (pa + 8) 8 = vb.toNat % 2 ^ 32 ∧
      (∀ x, tagAt t.tags x = if x / 16 = pa / 16 then tagFull else tagAt s.tags x) ∧ (∀ x, x ∉ span pa 16 → byteAt t.mem x = byteAt s.mem x) ∧
      KeepsRegs s.landSlot t [] [] [] [] ∧ KeepsUnits s.landSlot t ∧ (s.unwaited pa → MemFrame s.landSlot t (span pa 16) [] [] ∧ Advances s t) ∧
      (∀ c, c ≠ s.cur.ctx → ∀ d ∈ (s.ctx c).queue, ∀ q ∈ d.left, q.blk = some .tagged → q.word = some pa →
        ∃ d' ∈ (t.ctx c).queue, { q with blk := some Block.unheard } ∈ d'.left)) ∧
    (tagAt s.tags pa = tagFull → ∃ t : State, exec (.arrive a r) s = .next t ∧
      readNat t.mem pa 8 = afterArrival (readNat s.mem pa 8) (readNat s.mem (pa + 8) 4) ∧
      (∀ x, x ∉ span pa 8 → byteAt t.mem x = byteAt s.mem x) ∧ KeepsTags s t ∧ Advances s t ∧
      (t.ctx s.cur.ctx).arrival = some (pa, phaseOf (readNat s.mem pa 8))) ∧
    (∀ ph, tagAt s.tags pa = tagFull → s.cx.arrival = some (pa, ph) → s.cx.waitP0 = none →
      (phaseOf (readNat s.mem pa 8) ≠ ph → ∃ t : State, exec (.waitb a p) s = .next t ∧ WritesP s.landSlot t p 0 0 ∧ KeepsMemory s t ∧ KeepsTags s t ∧ Advances s t) ∧
      (phaseOf (readNat s.mem pa 8) = ph →
        exec (.waitb a p) s = .next ((s.landSlot.modCx fun x => { x.register pa ph with waitP0 := some ph }).blockOn pa .waitb [va])))) ∧
  (∀ (a : BitVec 5) (p : BitVec 4) (c : Nat) (u : State) (b : Disp) (q : Queued) (va : Word), q.syl.instr = .waitb a p → (u.ctx c).waiting .broken = [] →
    (u.atSyl c b q).hasS a va → q.ops = [va] →
    u.WakesAs c .waitb (.waitbWake c) b q)) ∧
  ((∀ (a : BitVec 5) (p : BitVec 4) (s : State) (va : Word) (pa : Nat), s.hasS a va → s.calm → homeAt (coreOf s.cur.ctx) va = some pa →
    va.toNat % 8 = 0 →
    (tagAt s.tags pa = tagFull → readNat s.mem pa 8 = 0 → ∃ t : State, exec (.join a p) s = .next t ∧ WritesP s.landSlot t p 0 0 ∧
      RegFrame s.landSlot t [] [p.toNat] [] [] ∧ Advances s t) ∧
    (tagAt s.tags pa = tagBroken → ∃ t : State, exec (.join a p) s = .next t ∧ WritesP s.landSlot t p 0 (outcome true) ∧ SetsBrk s.landSlot t ∧
      RegFrame s.landSlot t [] [p.toNat] [] [csrFST] ∧ Advances s t) ∧
    (tagAt s.tags pa = tagEmpty ∨ (tagAt s.tags pa = tagFull ∧ readNat s.mem pa 8 ≠ 0) →
      exec (.join a p) s = .next (s.landSlot.blockOn pa .join [va]))) ∧
  (∀ (a : BitVec 5) (p : BitVec 4) (c : Nat) (u : State) (b : Disp) (q : Queued) (va : Word), q.syl.instr = .join a p → (u.ctx c).waiting .broken = [] →
    (u.atSyl c b q).hasS a va → q.ops = [va] →
    u.WakesAs c .join (.joinWake c) b q))

/-- R268, R269, R271: MSEND of a word to a scratchpad or store issues a message; its delivery writes the word and tags it FULL, and nothing
else; MSEND to a Fold word issues its one update; EOS binds its task to the stream and issues its token, whose arrival acts at the stream. -/
def Obligations.MessagesAndTokensAreDelivered : Prop :=
  (∀ (a b : BitVec 5) (z : BitVec 1) (s : State) (va vb : Word), s.hasS a va → s.hasS b vb → s.cx.speculative = false →
    (∀ pa, homeAt (coreOf s.cur.ctx) va = some pa → va.toNat % 8 = 0 → ∃ (t : State) (m : Msend), exec (.msend a b 1) s = .next t ∧ t.msends = s.msends ++ [m] ∧
      m.id = s.nextId ∧ m.dst = (span pa 8).map PByte.at ∧ m.value = vb ∧ m.fold = none ∧ KeepsMemory s t ∧ KeepsTags s t ∧ KeepsRegs s t [] [] [] [] ∧
      Advances s t) ∧
    (∀ e f, homeAt (coreOf s.cur.ctx) va = none → va.toNat / 2 ^ 60 < 8 → s.foldEnd s.cur.ctx s.cx.uid va (oneElem (if z = 1 then 8 else 4)) = .ok (e, [f]) →
      e.gone = false → ∃ (t : State) (m : Msend), exec (.msend a b z) s = .next t ∧ t.msends = s.msends ++ [m] ∧ m.dst = e.bytes ∧ m.fold = some f ∧ m.value = vb ∧
      KeepsMemory s t ∧ KeepsTags s t ∧ KeepsRegs s t [] [] [] [] ∧ Advances s t) ∧
    (∀ e d j o tm, s.eosEnd va = .ok e → e.gone = false → va.toNat / 2 ^ 60 ≠ 1 → s.eosObj e va = .ok (d, j, o) → o.stream = some tm →
      s.obj d j = some o → tm.canBind s.cx.uid = true → ∃ (t : State) (m : EosMsg), exec (.eos a) s = .next t ∧ t.eoss = s.eoss ++ [m] ∧ m.obj = some (d, j) ∧
      m.uid = s.cx.uid ∧ (t.obj d j).bind Obj.stream = some (tm.bind s.cx.uid) ∧ KeepsMemory s t ∧ KeepsTags s t ∧ KeepsRegs s t [] [] [] [] ∧ Advances s t)) ∧
  (∀ (s : State) (m : Msend) (pa : Nat), s.msends.find? (fun o => o.id = m.id) = some m → s.msendReady m = true → m.wide = true → m.fold = none →
    m.dst = (span pa 8).map PByte.at → pa % 8 = 0 → inStore pa = true → tagAt s.tags pa = tagEmpty ∨ tagAt s.tags pa = tagFull → m.counted = false →
    s.invals = [] → (∀ e, Strike.message m.id e ∉ s.strikes) →
    ∃ t : State, exec (.msendDelivery m.id) s = .next t ∧ readNat t.mem pa 8 = m.value.toNat ∧ TagSet s t pa tagFull ∧
      (∀ x, x ∉ span pa 8 → byteAt t.mem x = byteAt s.mem x) ∧ t.msends = s.msends.filter fun o => o.id ≠ m.id) ∧
  (∀ (s : State) (m : EosMsg) (d j : Nat) (o : Obj) (tm : Stream), s.eoss.find? (fun o => o.id = m.id) = some m → s.eosReady m = true → m.dev = none →
    m.obj = some (d, j) → m.counted = false → s.obj d j = some o → o.brk = false → o.stream = some tm → s.invals = [] →
    (∀ e, Strike.message m.id e ∉ s.strikes) →
    ∃ t : State, exec (.eosArrival m.id) s = .next t ∧ (t.obj d j).bind Obj.stream = some (tm.token m.uid).1 ∧ KeepsMemory s t ∧ KeepsTags s t ∧
      t.eoss = s.eoss.filter fun o => o.id ≠ m.id)

namespace Sys2Proof.Machine

/-- Bits [hi + n - 1 : hi] of a word as a number. -/
def bitsAt (w : Word) (lo n : Nat) : Nat := w.toNat / 2 ^ lo % 2 ^ n

/-- The record that a spawn by core q completes from its template's words (R285, R294). -/
def spawnedRec (q : Nat) (w : Nat → Word) (a b : Word) (seq : BitVec 48) (lk : BitVec 16) (conds : List (BitVec 8)) (depth : Nat)
    (pend : Bool) : TaskRec :=
  let loc (i lo : Nat) : BitVec 32 := locShared q (BitVec.ofNat 32 (bitsAt (w i) lo 32))
  { entry := w 0, arg1 := a, arg2 := b, xblk := loc 3 32, join := loc 3 0, sem1 := loc 4 32, sem0 := loc 4 0, pend := pend
    len1 := bitsAt (w 5) 32 16, len0 := bitsAt (w 5) 16 16, foff := bitsAt (w 5) 0 16, seq := seq, lk := lk, conds := conds, depth := depth
    budget := bitsAt (w 7) 8 16, pin := (w 7).getLsbD 7, die := bitsAt (w 7) 6 1, cluster := bitsAt (w 7) 3 3, core := bitsAt (w 7) 0 3 }

/-- The core whose deque takes a record of these words (R293). -/
def spawnCore (q : Nat) (w : Nat → Word) : Nat := if (w 7).getLsbD 7 then bitsAt (w 7) 0 7 else q

/-- The template checks of R292 for the task in issue. -/
def State.templateGood (s : State) (par : Task) (w : Nat → Word) : Prop :=
  let q := coreOf s.cur.ctx
  let locs : List Nat := [bitsAt (w 3) 0 32, bitsAt (w 3) 32 32, bitsAt (w 4) 0 32, bitsAt (w 4) 32 32]
  (w 0).toNat % 4 = 0 ∧ (∀ l ∈ locs, l ≠ 0 → locValid q (BitVec.ofNat 32 l) = true) ∧
    1 ≤ bitsAt (w 5) 16 16 ∧ 64 * (bitsAt (w 5) 0 16 + bitsAt (w 5) 16 16) ≤ 2 ^ 21 ∧
    2 ^ 21 + 64 * (bitsAt (w 5) 0 16 + bitsAt (w 5) 32 16) ≤ 2 ^ 22 - 512 ∧ bitsAt (w 7) 8 16 ≠ 0 ∧ (w 5).toNat < 2 ^ 49 ∧
    (if (w 7).getLsbD 7 then (bitsAt (w 7) 3 4 ≠ q / 8 → ∀ l ∈ locs, l / 2 ^ 28 ≠ 9) ∧ (bitsAt (w 7) 6 1 ≠ q / 64 → ∀ l ∈ locs, l / 2 ^ 28 ≠ 10) ∧
        s.clusterFnOf (bitsAt (w 7) 3 4) = s.launchFn par.launch
      else bitsAt (w 7) 0 7 = 0)

/-- Every other context is as before, but for what it notes of its landed scratchpad writes. -/
def OthersGoOn (s t : State) : Prop :=
  ∀ c, c ≠ s.cur.ctx → t.ctx c = { s.ctx c with stores := (t.ctx c).stores } ∧
    (t.ctx c).stores.map StoreRec.inflight = (s.ctx c).stores.map StoreRec.inflight

/-- What a successful spawn of record r by par to core q does (R294): the record stands newest in the deque, the join word counts it, the
die's sequence number moves on, the predicate is all ones, and nothing else of memory, tags or other contexts changes. -/
def Spawned (s t : State) (q : Nat) (r : TaskRec) (par : Task) (join : BitVec 32) (p : BitVec 4) : Prop :=
  (t.core q).deque = (s.core q).deque ++ [⟨r, s.nextId, par.launch, some par.uid, false⟩] ∧ (∀ k, k ≠ q → (t.core k).deque = (s.core k).deque) ∧
    (t.die (dieOf s.cur.ctx)).nextSeq = (s.die (dieOf s.cur.ctx)).nextSeq + 1 ∧ t.nextId = s.nextId + 1 ∧
    t.taskInfo s.nextId = ⟨some par.uid, false, par.launch⟩ ∧
    (∀ pa, locPA (coreOf s.cur.ctx) join = some pa →
      readNat t.mem pa 8 = if tagAt s.tags pa = tagFull then (readNat s.mem pa 8 + 1) % 2 ^ 64 else readNat s.mem pa 8) ∧
    (∀ x, (∀ pa, locPA (coreOf s.cur.ctx) join = some pa → x ∉ span pa 8) → byteAt t.mem x = byteAt s.mem x) ∧ KeepsTags s t ∧
    WritesP s.landSlot t p 0 (BitVec.allOnes 64) ∧ KeepsRegs s.landSlot t [] [p.toNat] [] [] ∧ KeepsUnits s.landSlot t ∧ Advances s t ∧ OthersGoOn s t

/-- A condition after a SPAWNC with operand v: the first one fixes its probability (R312). -/
def fixedCond (d : Die) (v : Word) (k : Cond) : Cond :=
  if k.set then k
  else if v.getLsbD 8 then
    { k with set := true, pred := true, site := bitsAt v 32 10, prob := (Sparse.get (128 : BitVec 8) d.pred (bitsAt v 32 10)).toNat * 2 ^ 15 / 255 }
  else { k with set := true, pred := false, site := 0, prob := bitsAt v 16 16 }

end Sys2Proof.Machine

/-- R291 to R296, R311, R312 (that DET0 of the template fault is zero is the model's reading, log 13): SPAWN with a valid template completes its record and pushes it at the newest end of the target's deque, with
p all ones, or, at depth 31 or with a full deque, only writes p zero; with o = 1 the named Own segment passes to the child; SPAWNC adds
its condition to the child's list and multiplies its likelihood. An invalid template raises the window fault "template". -/
def Obligations.SpawnsPushRecords : Prop :=
  ∀ (tt : BitVec 2) (a b c : BitVec 5) (o : BitVec 1) (p : BitVec 4) (s : State) (va vb vc ctl : Word) (w : Nat → Word) (par : Task),
    s.cur.ctx < 512 → s.hasS a va → s.hasS b vb → s.hasS c vc → (∀ i ∈ [0, 3, 4, 5, 7], s.hasCsr (16 + 8 * tt.toNat + i) (w i)) →
    s.hasCsr csrCTL ctl → s.cx.task = some par → s.released → s.cx.stores = [] → s.dieResolving (dieOf s.cur.ctx) = false →
    let own := coreOf s.cur.ctx
    let q := spawnCore own w
    let d := s.die (dieOf s.cur.ctx)
    let rec' := fun lk conds => spawnedRec own w va vb d.nextSeq lk conds (par.trec.depth + 1) (ctl.getLsbD 4)
    let full := par.trec.depth = 31 ∨ 64 ≤ (s.core q).deque.length
    let join := BitVec.ofNat 32 (bitsAt (w 3) 0 32)
    let joinOk := ∀ pa, locPA own join = some pa → tagAt s.tags pa = tagFull ∨ tagAt s.tags pa = tagBroken
    let stays := par.trec.conds = [] ∨ (w 7).getLsbD 7 = false ∨ bitsAt (w 7) 6 1 = dieOf s.cur.ctx
    (¬ s.templateGood par w → ∀ i ∈ [Instr.spawn tt a b o p, .spawnc tt a b c p], exec i s = .next (s.raise (flt 0x03 11 0 0))) ∧
    (s.templateGood par w → joinOk → stays → full → (o = 1 → par.trec.conds = [] ∧ s.ownCheck va vb = .ok ()) →
      ∃ t : State, exec (.spawn tt a b o p) s = .next t ∧ WritesP s.landSlot t p 0 0 ∧ RegFrame s.landSlot t [] [p.toNat] [] [] ∧ Advances s t) ∧
    (s.templateGood par w → joinOk → stays → ¬ full →
      (o = 0 → ∃ t : State, exec (.spawn tt a b o p) s = .next t ∧ Spawned s t q (rec' par.trec.lk par.trec.conds) par join p ∧
        ∀ e, t.obj e = s.obj e) ∧
      (o = 1 → par.trec.conds = [] → s.ownCheck va vb = .ok () →
        ∃ t ob, exec (.spawn tt a b o p) s = .next t ∧ Spawned s t q (rec' par.trec.lk par.trec.conds) par join p ∧
          t.obj (bitsAt va 39 1) (bitsAt va 16 23) = some ob ∧
          (ob.segAt (bitsAt vb 0 40)).map (fun g => (g.role, g.owner, g.retOwner)) = some (Role.own, some s.nextId, some par.uid)) ∧
      (∀ k, vc.toNat < 2 ^ 42 → bitsAt vc 9 7 = 0 → (if vc.getLsbD 8 then bitsAt vc 16 16 = 0 else bitsAt vc 32 10 = 0 ∧ bitsAt vc 16 16 ≤ 2 ^ 15) →
        d.conds.find? (fun e => e.1 = bitsAt vc 0 8) = some (bitsAt vc 0 8, k) → k.pasid = par.pasid → k.launch = par.launch →
        vc.setWidth 8 ∉ par.trec.conds → par.trec.conds.length < 4 → ((w 7).getLsbD 7 = true → bitsAt (w 7) 6 1 = dieOf s.cur.ctx) →
        ∃ t : State, exec (.spawnc tt a b c p) s = .next t ∧
          Spawned s t q (rec' (BitVec.ofNat 16 (par.trec.lk.toNat * (fixedCond d vc k).prob / 2 ^ 15)) (par.trec.conds ++ [vc.setWidth 8])) par join p ∧
          (t.die (dieOf s.cur.ctx)).conds.find? (fun e => e.1 = bitsAt vc 0 8) = some (bitsAt vc 0 8, fixedCond d vc k)))

namespace Sys2Proof.Machine

/-- The owner of a segment after a task of its chain has ended, where the return owner goes on (R193, R297). -/
def ownerAfter (uid : Nat) (g : Seg) : Option Nat := if g.owner = some uid then g.retOwner else g.owner

/-- The state of R49 in a context that starts a record: arguments, footprint addresses, flags, and everything else at its start value. -/
def StartedAt (x : Ctx) (r : QRec) (brk : Bool) : Prop :=
  x.pc = r.trec.entry ∧ x.entry = 1 ∧ x.queue = [] ∧ x.front = [] ∧ x.redirects = [] ∧ x.nulls = [] ∧ (x.task.map fun t => (t.uid, t.trec, t.launch)) = some (r.uid, r.trec, r.launch) ∧
    x.sreg 1 = Cell.of r.trec.arg1 ∧ x.sreg 2 = Cell.of r.trec.arg2 ∧
    x.sreg 29 = Cell.of (BitVec.ofNat 64 (2 ^ 63 + 64 * r.trec.foff)) ∧
    x.sreg 30 = Cell.of (BitVec.ofNat 64 (2 ^ 63 + 64 * (r.trec.foff + r.trec.len0 - 1))) ∧
    (∀ i, i ∉ [1, 2, 29, 30] → x.sreg i = Cell.of 0) ∧ (∀ i, x.preg i = Cell.of 0) ∧ (∀ i, x.vreg i = Cell.of 0) ∧
    (∀ i, x.shapeActive i = Cell.of 0 ∧ x.shapeShadow i = Cell.of 0) ∧ x.csrCell csrFST = Cell.of (if brk then 128 else 0) ∧
    x.csrCell csrATTN = Cell.of 0 ∧ x.loop = none ∧ x.stores = [] ∧ (∀ n, (x.bank n).at x.entry = none) ∧
    x.fmtA.at x.entry = (.fp32, .fp32) ∧ x.fmtB.at x.entry = (.fp32, .fp32) ∧ x.scaleA = Cell.of scaleStart ∧ x.scaleB = Cell.of scaleStart ∧
    x.tu.rows = 64 ∧ x.tu.rc = 0 ∧ x.inHandler = false ∧ x.chkv = false ∧ (∀ t ∈ x.task, (x.csrCell csrTREC).pend = [] ∧ t.fault = none)

end Sys2Proof.Machine

/-- R46, R297, R299 to R303, R49: END of a task that is not speculative frees its context, decrements its join word, and its Own segments
pass back; a core takes the newest startable record of its deque that is not speculative, and the context starts it in the state of R49,
with the completion entries and join word of the new task written, or with its prelude's move in flight; STEAL takes the oldest half of what a
thief may take; PRELOAD performs a queued task's prelude in its footprint. -/
def Obligations.TasksEndStartAndMove : Prop :=
  (∀ (s : State) (tk : Task), s.cx.task = some tk → tk.trec.conds = [] → s.released → s.cx.stores = [] → s.cx.supervisor = false →
    ∃ t : State, exec .endTask s = .next t ∧ (t.ctx s.cur.ctx).task = none ∧ (t.taskInfo tk.uid).ended = true ∧
      (∀ pa, locPA (coreOf s.cur.ctx) tk.trec.join = some pa →
        readNat t.mem pa 8 = if tagAt s.tags pa = tagFull then readNat s.mem pa 8 - 1 else readNat s.mem pa 8) ∧
      (∀ a, (∀ pa, locPA (coreOf s.cur.ctx) tk.trec.join = some pa → a ∉ span pa 8) → byteAt t.mem a = byteAt s.mem a) ∧ KeepsTags s t ∧
      OthersGoOn s t ∧
      ∀ d j o, s.obj d j = some o → (∀ g ∈ o.segs, g.owner = some tk.uid → ∀ r ∈ g.retOwner, r ≠ tk.uid ∧ (s.taskInfo r).ended = false) →
        ∃ o', t.obj d j = some o' ∧ o'.segs.map Seg.role = o.segs.map Seg.role ∧
          ((∀ g ∈ o.segs, g.owner = some tk.uid → g.retOwner ≠ none) → o'.segs.map Seg.owner = o.segs.map (ownerAfter tk.uid))) ∧
  (∀ (s : State) (tk : Task), s.cx.task = some tk → tk.trec.conds ≠ [] → s.released → s.cx.stores = [] → s.cx.supervisor = false →
    ∃ t e, exec .endTask s = .next t ∧ (t.ctx s.cur.ctx).task = none ∧ t.ended = s.ended ++ [e] ∧ e.task = tk ∧ e.ctx = s.cur.ctx ∧
      KeepsMemory s t ∧ KeepsTags s t) ∧
  (∀ (q : Nat) (s : State) (r : QRec) (l1 l2 : List QRec), (s.die (dieOfCore q)).replan = false → (s.core q).deque = l1 ++ r :: l2 →
    r.trec.conds = [] → s.startable q r.uid r.trec = true → (∀ k ∈ l2, k.trec.conds ≠ [] ∨ s.startable q k.uid k.trec = false) →
    s.pick q = some (.queued q r)) ∧
  (∀ (c v : Nat) (s : State) (r : QRec), (s.ctx c).task = none → s.contextFree c = true → s.pick (coreOf c) = some (.queued v r) →
    r.trec.footOk = true → r.trec.xblk = 0 →
    ∃ t : State, exec (.taskStart c) s = .next t ∧
      StartedAt (t.ctx c) r (s.semState (coreOf c) r.trec.sem0 = some true || s.semState (coreOf c) r.trec.sem1 = some true) ∧
      (t.core v).deque = (s.core v).deque.filter (fun k => k.uid ≠ r.uid) ∧
      (∀ h < 4, readNat t.mem (complPA c h) 8 = (if h = 0 ∧ r.preloaded = true then 2 ^ 32 else 0) ∧ tagAt t.tags (complPA c h) = tagFull) ∧
      (let j := spadPA (coreOf c) (64 * (r.trec.foff + r.trec.len0 - 1))
       readNat t.mem j 8 = 0 ∧ tagAt t.tags j = tagFull ∧
        ∀ a, a ∉ span (complPA c 0) 128 → a ∉ span j 8 → byteAt t.mem a = byteAt s.mem a)) ∧
  (∀ (c : Nat) (s : State) (tk : Task) (p : Prelude) (m : Move), (s.ctx c).task = some tk → tk.prelude = some p → s.preludeMove c tk p = .ok m →
    ∃ t : State, exec (.taskStart c) s = .next t ∧ t.moves = s.moves ++ [m] ∧ KeepsMemory s t ∧ KeepsTags s t ∧
      ((t.ctx c).task.map Task.prelude) = some none) ∧
  (∀ (thief victim : Nat) (s : State), thief ≠ victim → thief / 64 = victim / 64 → s.anyFree thief = true → s.pickLocal thief = none →
    (s.core thief).stolen = false → (s.core thief).deque.length < 64 → s.loot thief victim ≠ [] →
    (thief / 8 = victim / 8 ∨ s.lootIn thief true = false) → ((s.core victim).deque.map QRec.uid).Nodup →
    ∃ t l, exec (.steal thief victim) s = .next t ∧ l = (s.loot thief victim).take (min (((s.loot thief victim).length + 1) / 2) (64 - (s.core thief).deque.length)) ∧
      (t.core thief).deque = (s.core thief).deque ++ l ∧ (t.core victim).deque = (s.core victim).deque.filter (fun r => !l.contains r) ∧
      (∀ q, q ≠ thief → q ≠ victim → t.core q = s.core q) ∧ t.mem = s.mem ∧ t.ctxs = s.ctxs) ∧
  (∀ (q uid : Nat) (s : State) (r : QRec) (p : Prelude) (m : Move) (sp dp : List Nat), s.preloadable q uid = some (r, p) →
    (s.setCtx (4 * q) { Ctx.idle with task := some ⟨r.trec, uid, r.launch, (s.launchOf r.launch).elim 0 (·.pasid), r.parent, [], [], 0, [], none, false, none⟩ }).preludeMove
      (4 * q) ⟨r.trec, uid, r.launch, (s.launchOf r.launch).elim 0 (·.pasid), r.parent, [], [], 0, [], none, false, none⟩ p = .ok m →
    m.gone = false → m.src = sp.map PByte.at → m.dst = dp.map PByte.at → sp.length = m.es * m.n → dp.length = m.es * m.n → 0 < m.es → dp.Nodup →
    s.poisoned sp = false → Strike.preload uid ∉ s.strikes →
    ∃ t : State, exec (.preload q uid) s = .next t ∧ (∀ i < dp.length, byteAt t.mem (dp.getD i 0) = byteAt s.mem (sp.getD i 0)) ∧
      (∀ a, a ∉ dp → byteAt t.mem a = byteAt s.mem a) ∧
      (t.core q).deque = updWhere (fun k => k.uid = uid) (fun k => { k with preloaded := true }) (s.core q).deque)

namespace Sys2Proof.Machine

/-- The entry of condition i of the die of the context in issue, if it is OPEN. -/
def State.condOf (s : State) (i : Nat) : Option Cond := ((s.die (dieOf s.cur.ctx)).conds.find? fun e => e.1 = i).map (·.2)

/-- The predictor entry of a site after a resolution (R319): with step of an eighth, rounded toward zero. -/
def learned (k : Cond) (v : Bool) (old : Nat → Nat) (site : Nat) : Int :=
  if k.pred = true ∧ site = k.site then (old site : Int) + ((if v then 255 else 0) - (old site : Int)).tdiv 8 else old site

/-- A RESOLVE of condition c has ended for its own task: the condition is FREE, the others and their owners are not touched, and its
predictor entry has learned the outcome (R319). -/
def Resolved (s t : State) (c : Nat) (k : Cond) (v : Bool) : Prop :=
  t.condOf c = none ∧ (∀ i, i ≠ c → t.condOf i = s.condOf i) ∧
    (∀ i, ((t.die (dieOf s.cur.ctx)).estimate i : Int) = learned k v (s.die (dieOf s.cur.ctx)).estimate i) ∧ KeepsTags s t ∧ Advances s t ∧
    KeepsRegs s.landSlot t [] [] [] []

end Sys2Proof.Machine

/-- R308, R309, R318 to R320, R323 (that DET0 of the condition fault is zero is the model's reading, log 13): CNEW opens the lowest FREE condition of its die, or writes p zero; RESOLVE of an OPEN condition of its
own launch frees it and teaches its predictor; a true outcome leaves the lists of the tasks that hold it without it, and commits a task whose
list becomes empty: its buffered writes reach memory; a false outcome prunes them. -/
def Obligations.ConditionsOpenAndResolve : Prop :=
  (∀ (d : BitVec 5) (p : BitVec 4) (s : State) (tk : Task), s.cx.task = some tk → s.cx.stores = [] → s.dieResolving (dieOf s.cur.ctx) = false →
    (∀ i < 256, s.condOf i = none → (∀ j < i, s.condOf j ≠ none) →
      ∃ t : State, exec (.cnew d p) s = .next t ∧ WritesS s.landSlot t d 0 (BitVec.ofNat 64 i) ∧ WritesP s.landSlot t p 0 (BitVec.allOnes 64) ∧
        t.condOf i = some ⟨tk.pasid, tk.launch, tk.uid, false, 0, false, 0⟩ ∧ (∀ j, j ≠ i → t.condOf j = s.condOf j) ∧ Advances s t ∧
        KeepsMemory s t ∧ KeepsTags s t ∧ KeepsRegs s.landSlot t [d.toNat] [p.toNat] [] []) ∧
    ((∀ i < 256, s.condOf i ≠ none) →
      ∃ t : State, exec (.cnew d p) s = .next t ∧ WritesP s.landSlot t p 0 0 ∧ Advances s t ∧ RegFrame s.landSlot t [] [p.toNat] [] [])) ∧
  (∀ (a : BitVec 5) (p : BitVec 4) (s : State) (va vp : Word) (tk : Task) (k : Cond), s.hasS a va → s.hasP p vp → s.cx.task = some tk →
    va.toNat < 256 → s.resolving s.cur.ctx = none → s.dieResolving (dieOf s.cur.ctx) = false → tk.trec.conds = [] → s.released → s.cx.stores = [] →
    s.condOf va.toNat = some k → k.pasid = tk.pasid → k.launch = tk.launch →
    let c := BitVec.ofNat 8 va.toNat
    let v := vp.getLsbD 0
    ((∀ pl ∈ s.places, c ∉ pl.trec.conds) →
      ∃ t : State, exec (.resolve a p) s = .next t ∧ Resolved s t va.toNat k v ∧ KeepsMemory s t) ∧
    (v = true → (∀ pl ∈ s.places, c ∈ pl.trec.conds → ∃ c' ∈ pl.trec.conds, c' ≠ c) →
      ∃ t : State, exec (.resolve a p) s = .next t ∧ Resolved s t va.toNat k v ∧ KeepsMemory s t ∧
        ∀ q, dieOfCore q = dieOf s.cur.ctx → (t.core q).deque = (s.core q).deque.map fun r =>
          if c ∈ r.trec.conds then
            { r with trec := { r.trec with conds := r.trec.conds.filter (· ≠ c), lk := (s.die (dieOf s.cur.ctx)).product (r.trec.conds.filter (· ≠ c)) } }
          else r) ∧
    (∀ q r, v = false → (s.cores.map Prod.fst).Nodup → dieOfCore q = dieOf s.cur.ctx → Place.queued q r ∈ s.places → c ∈ r.trec.conds →
      (∀ pl ∈ s.places, c ∈ pl.trec.conds ∨ pl.uid = r.uid → pl = .queued q r) →
      (∀ e ∈ (s.die (dieOf s.cur.ctx)).conds, e.2.creator ≠ r.uid) →
      ∃ t : State, exec (.resolve a p) s = .next t ∧ Resolved s t va.toNat k v ∧ (t.core q).deque = (s.core q).deque.filter (fun x => x.uid ≠ r.uid) ∧
        (t.taskInfo r.uid).ended = true ∧
        (∀ pa, locPA q r.trec.join = some pa →
          readNat t.mem pa 8 = if tagAt s.tags pa = tagFull then readNat s.mem pa 8 - 1 else readNat s.mem pa 8) ∧
        ∀ x, (∀ pa, locPA q r.trec.join = some pa → x ∉ span pa 8) → byteAt t.mem x = byteAt s.mem x) ∧
    (∀ c2 t2 bs, v = true → dieOf c2 = dieOf s.cur.ctx → (s.ctx c2).task = some t2 → t2.dead = false → t2.trec.conds = [c] → (∃ n, t2.effects = [.write n bs]) →
      (∀ pl ∈ s.places, c ∈ pl.trec.conds ∨ pl.uid = t2.uid → pl = .held c2 t2) → (∀ b, Strike.commit t2.uid b ∉ s.strikes) → s.commitParked c2 t2.uid = false →
      ∃ t : State, exec (.resolve a p) s = .next t ∧ Resolved s t va.toNat k v ∧ (∀ x, byteAt t.mem x = (storedLast bs x).getD (byteAt s.mem x)) ∧
        ((t.ctx c2).task.map fun u => (u.trec.conds, u.effects)) = some ([], []))) ∧
  (∀ (a : BitVec 5) (p : BitVec 4) (s : State) (va vp : Word) (tk : Task), s.hasS a va → s.hasP p vp → s.cx.task = some tk → s.resolving s.cur.ctx = none →
    s.dieResolving (dieOf s.cur.ctx) = false → (256 ≤ va.toNat ∨ s.condOf (va.toNat % 256) = none ∨ (∃ k, s.condOf (va.toNat % 256) = some k ∧ (k.pasid ≠ tk.pasid ∨ k.launch ≠ tk.launch))) →
    exec (.resolve a p) s = .next (s.raise (flt 0x03 13 0 0)))

namespace Sys2Proof.Machine

/-- An object at its destruction point (R346). -/
def Obj.destroyed (o : Obj) : Obj := { o with gen := o.gen + 1, live := false, brk := false }

/-- The strong handle of an object. -/
def handleOf (d j : Nat) (o : Obj) : Word := BitVec.ofNat 64 (2 ^ 62 + o.gen.toNat * 2 ^ 40 + d * 2 ^ 39 + j * 2 ^ 16)

/-- An instruction on one object has completed: the object's entry is as given, the others, memory, tags and registers are as before. -/
def ObjectOnly (s t : State) (d j : Nat) (o : Obj) : Prop :=
  t.obj d j = some o ∧ (∀ e i, (e, i) ≠ (d, j) → t.obj e i = s.obj e i) ∧ KeepsMemory s t ∧ KeepsTags s t ∧ Advances s t

/-- A candidate of reclaim (R345). -/
def Obj.candidate (o : Obj) : Prop := o.live = true ∧ o.recl = true ∧ o.scount = 0

end Sys2Proof.Machine

/-- R335 to R341, R344 to R347: HALLOC makes an object in the lowest free range of its die, zeroed or at its Fold's identity, and writes its
strong handle; it waits while destroyed objects drain, RECLAIM_WAKE acting again, and writes p zero when nothing can make room; HPIN, HDROP,
HPRIO and HFREE change one object; a destroyed object returns to the pool once its accesses are over; watermark reclaim destroys the first
candidate by priority, then age. -/
def Obligations.ObjectsAreMadePinnedAndDestroyed : Prop :=
  (∀ (d a b : BitVec 5) (p : BitVec 4) (s : State) (va vb : Word), s.hasS a va → s.hasS b vb → hallocCheck va vb = .ok () → s.cx.speculative = false →
    s.cx.stores = [] →
    let die := dieOf s.cur.ctx
    let n := (va.toNat + 4095) / 4096
    (s.roomNow die n = true → ∃ t j u o, exec (.halloc d a b p) s = .next t ∧ (s.die die).nextFree = some j ∧
      t.obj die j = some o ∧ o.live = true ∧ o.base = 4096 * u ∧ o.len = va.toNat ∧ o.scount = 1 ∧ o.inflight = 0 ∧ o.recl = vb.getLsbD 35 ∧
      o.prio.toNat = bitsAt vb 36 4 ∧ o.pasid = s.cx.pasid ∧ o.lru = (s.die die).pin + 1 ∧ o.segs.map Seg.stop = [va.toNat] ∧ o.segs.map Seg.role = [descRole vb] ∧
      unitsFree (s.usedUnits die fun _ => true) u n = true ∧ halfUnits * die ≤ u ∧ u + n ≤ halfUnits + halfUnits * die ∧
      (∀ u', halfUnits * die ≤ u' → u' < u → unitsFree (s.usedUnits die fun _ => true) u' n = false) ∧
      (∀ i < va.toNat, byteAt t.mem (hbmPA (4096 * u + i)) = match descRole vb with
        | .fold op _ => BitVec.ofNat 8 (foldIdentity op / 2 ^ (8 * (i % foldWord op)))
        | _ => 0) ∧
      (∀ x, (∀ i < va.toNat, x ≠ hbmPA (4096 * u + i)) → byteAt t.mem x = byteAt s.mem x) ∧
      WritesS s.landSlot t d 0 (handleOf die j o) ∧ WritesP s.landSlot t p 0 (BitVec.allOnes 64) ∧ KeepsTags s t ∧ Advances s t ∧
      KeepsRegs s.landSlot t [d.toNat] [p.toNat] [] []) ∧
    (s.roomNow die n = false → s.candidates die = [] →
      (s.roomLater die n = false → ∃ t : State, exec (.halloc d a b p) s = .next t ∧ WritesP s.landSlot t p 0 0 ∧ RegFrame s.landSlot t [] [p.toNat] [] [] ∧ Advances s t) ∧
      (s.roomLater die n = true → exec (.halloc d a b p) s = .next (s.landSlot.blockWith .reclaim [va, vb])))) ∧
  (∀ (d a b : BitVec 5) (p : BitVec 4) (c : Nat) (u : State) (e : Disp) (q : Queued) (va vb : Word), q.syl.instr = .halloc d a b p →
    (u.atSyl c e q).hasS a va → (u.atSyl c e q).hasS b vb → q.ops = [va, vb] →
    u.WakesAs c .reclaim (.reclaimWake c) e q) ∧
  (∀ (r a : BitVec 5) (p k : BitVec 4) (s : State) (va : Word) (d j : Nat) (o : Obj), s.hasS a va → s.cx.speculative = false → s.released →
    s.cx.stores = [] → s.moves = [] → s.requests = [] → d < 2 → j < 2 ^ 23 → s.obj d j = some o → o.live = true →
    (va = handleOf d j o →
      (s.foreignOwn s.cx.uid o = none → ∃ t : State, exec (.hfree a) s = .next t ∧ ObjectOnly s t d j o.destroyed ∧ KeepsRegs s.landSlot t [] [] [] []) ∧
      (o.scount ≠ 0 → ∃ t : State, exec (.hdrop a) s = .next t ∧ KeepsRegs s.landSlot t [] [] [] [] ∧
        ObjectOnly s t d j (if o.scount = 1 ∧ o.recl = false then { o with scount := 0 }.destroyed else { o with scount := o.scount - 1 })) ∧
      (o.scount = 0 → exec (.hdrop a) s = .next (s.raise (flt 0x03 8 va va))) ∧
      ∃ t : State, exec (.hprio a k) s = .next t ∧ ObjectOnly s t d j { o with prio := k } ∧ KeepsRegs s.landSlot t [] [] [] []) ∧
    (va = handleOf d j o + BitVec.ofNat 64 (2 ^ 60) → o.scount ≠ BitVec.allOnes 32 → ∃ t : State, exec (.hpin r a p) s = .next t ∧
      ObjectOnly s t d j { o with scount := o.scount + 1, lru := (s.die d).pin + 1 } ∧ (t.die d).pin = (s.die d).pin + 1 ∧
      WritesS s.landSlot t r 0 (handleOf d j o) ∧ WritesP s.landSlot t p 0 (BitVec.allOnes 64) ∧ KeepsRegs s.landSlot t [r.toNat] [p.toNat] [] []) ∧
    (∀ g, g ≠ o.gen → va = handleOf d j { o with gen := g } + BitVec.ofNat 64 (2 ^ 60) → ∃ t : State, exec (.hpin r a p) s = .next t ∧
      WritesP s.landSlot t p 0 0 ∧ RegFrame s.landSlot t [] [p.toNat] [] [] ∧ Advances s t)) ∧
  (∀ (d j : Nat) (s : State) (o : Obj), s.obj d j = some o → o.live = false → o.inflight = 0 →
    ∃ t : State, exec (.returnToPool d j) s = .next t ∧ t.obj d j = none ∧ (∀ e i, (e, i) ≠ (d, j) → t.obj e i = s.obj e i) ∧
      (t.die d).freed = (s.die d).freed ++ [j] ∧ Sparse.get 0 (t.die d).gens j = o.gen ∧ t.mem = s.mem ∧ t.ctxs = s.ctxs) ∧
  (∀ (d : Nat) (s : State), s.watermarkDue d = true → s.requests = [] → ((s.die d).objs.map Prod.fst).Nodup → (∀ e ∈ (s.die d).objs, e.1 < 2 ^ 23) →
    ∃ t j o, exec (.watermarkReclaim d) s = .next t ∧ s.obj d j = some o ∧ o.candidate ∧ t.obj d j = some o.destroyed ∧ t.mem = s.mem ∧
      (∀ i o', s.obj d i = some o' → o'.candidate → o.prio.toNat < o'.prio.toNat ∨ (o.prio = o'.prio ∧ (o.lru.toNat < o'.lru.toNat ∨ (o.lru = o'.lru ∧ j ≤ i)))) ∧
      ∀ i, i ≠ j → t.obj d i = s.obj d i)

/-- R198 to R202: RECAST of a range that passes its checks closes it and waits; at the ORDERING_POINT, once the drain is over, every byte of the
range has the new role, every other byte its old one, a new Flow starts published at its end, and RECAST completes. No byte moves. -/
def Obligations.RecastChangesTheRoleOfItsRange : Prop :=
  (∀ (a b c : BitVec 5) (s : State) (va vb vc : Word) (d j : Nat) (o : Obj), s.hasS a va → s.hasS b vb → s.hasS c vc → s.cx.speculative = false →
    s.cx.stores = [] → d < 2 → j < 2 ^ 23 → s.obj d j = some o → o.live = true → va = handleOf d j o → descOk vc = true →
    let start := bitsAt vc 24 8 * 2 ^ 32 + bitsAt vc 32 32
    o.recastCheck s.cx.uid start vb.toNat vc va = .ok () → o.isClosed start vb.toNat = false →
    ∃ (t : State) (e : RecastSt), exec (.recast a b c) s = .next t ∧ t.recasts = s.recasts ++ [e] ∧ e.ctx = s.cur.ctx ∧ (e.die, e.slot, e.start, e.len, e.role) = (d, j, start, vb.toNat, descRole vc) ∧
      t.obj d j = some { o with inflight := o.inflight + 1, closed := o.closed ++ [(start, vb.toNat, s.cur.ctx)] } ∧ (t.ctx s.cur.ctx).queue = (s.cx.mark s.cur.entry s.cur.slot fun _ => some .recast).queue ∧
      KeepsMemory s t ∧ KeepsTags s t) ∧
  (∀ (c : Nat) (s : State) (b : Disp) (q : Queued) (r : RecastSt) (o : Obj), s.recasts.find? (fun e => e.ctx = c) = some r →
    (s.ctx c).waiting .recast = [(b, q)] → s.drained r = true → s.obj r.die r.slot = some o → o.gen = r.gen → (o.segs.map Seg.stop).Pairwise (· < ·) →
    r.start + r.len ≤ o.len → (o.segs.getLast?).map Seg.stop = some o.len → 0 < r.len →
    ∃ (t : State) (o' : Obj), exec (.orderingPoint c) s = .next t ∧ t.obj r.die r.slot = some o' ∧
      (∀ x < o.len, (o'.segAt x).map Seg.role = if r.start ≤ x ∧ x < r.start + r.len then some r.role else (o.segAt x).map Seg.role) ∧
      (r.role.isFlow = true → ∃ st : Stream, o'.stream = some st ∧ (st.c, st.p, st.pr, st.n, st.append) = (r.start, r.start + r.len, r.start + r.len, r.n, r.append) ∧
        st.prods = [] ∧ st.e = 0 ∧ st.final = none) ∧
      o'.inflight = o.inflight - (if r.counted then 1 else 0) ∧ KeepsMemory s t ∧ KeepsTags s t ∧ Advances (s.atSyl c b q) t)

namespace Sys2Proof.Machine

/-- The physical number of a byte of a save area whose pages lie at targets (R361, R398). -/
def areaAt (base : Word) (tgt : Nat → Nat) (off : Nat) : Nat := tgt (base.toNat / 4096 + off / 4096) + off % 4096

/-- A context can be saved at once: its save area is aligned, granted page by page in host memory, no access or scratchpad write of it
is outstanding, no imprecise fault of it undetected, and no RECAST or RESOLVE of it is under way; no dirty log is on. -/
def SaveReady (s : State) (c : Nat) (base tvec : Word) (tgt : Nat → Nat) : Prop :=
  (s.ctx c).csrCell csrTREC = Cell.of base ∧ (s.ctx c).csrCell csrTVEC = Cell.of tvec ∧ base.toNat % 4096 = 0 ∧ base.toNat + 2 ^ 23 ≤ 2 ^ 57 ∧
    (s.ctx c).pages = [] ∧ (s.ctx c).stores = [] ∧ (s.ctx c).inflightRecord = [] ∧ (s.ctx c).restore = none ∧ (s.ctx c).waitsFor .recast = false ∧
    (s.ctx c).late = [] ∧ s.committing (s.ctx c).uid = false ∧
    (∀ m ∈ s.moves, m.ctx ≠ c) ∧ (∀ m ∈ s.msends, m.ctx ≠ c) ∧ (∀ m ∈ s.eoss, m.ctx ≠ c) ∧ s.dlogs = [] ∧
    (∀ p < 2048, ∃ r w, s.pageOf c (base.toNat / 4096 + p) true = some (.at (tgt (base.toNat / 4096 + p)) r w)) ∧
    (∀ p < 2048, tgt (base.toNat / 4096 + p) + 4096 ≤ 2 ^ 64 ∧
      ∀ p' < 2048, p ≠ p' → tgt (base.toNat / 4096 + p) + 4096 ≤ tgt (base.toNat / 4096 + p') ∨ tgt (base.toNat / 4096 + p') + 4096 ≤ tgt (base.toNat / 4096 + p))

/-- TCAUSE of a fault (R362). -/
def tcauseOf (f : FaultInfo) : Nat :=
  f.imm.toNat * 2 ^ 48 + f.sub.toNat * 2 ^ 40 + (if f.fatal then 512 else 0) + (if f.imprec then 256 else 0) + f.cls.toNat

/-- The registers of a context x, each with its outstanding results, stand in a save area (R355, R368). -/
structure RegistersSaved (t : State) (x : Ctx) (base : Word) (tgt : Nat → Nat) : Prop where
  scalars    : ∀ r < 32, readNat t.mem (areaAt base tgt (0x100 + 8 * r)) 8 = (x.sreg r).settle.base.toNat
  predicates : ∀ r < 12, 0 < r → readNat t.mem (areaAt base tgt (0x200 + 8 * r)) 8 = (x.preg r).settle.base.toNat
  flags      : readNat t.mem (areaAt base tgt 0x280) 8 = (x.csrCell csrCTL).settle.base.toNat ∧
    readNat t.mem (areaAt base tgt 0x288) 8 = (x.csrCell csrFST).settle.base.toNat ∧
    readNat t.mem (areaAt base tgt 0x290) 8 = (x.csrCell csrATTN).settle.base.toNat
  templates  : ∀ i < 32, readNat t.mem (areaAt base tgt (0x300 + 8 * i)) 8 = (x.csrCell (16 + i)).settle.base.toNat
  shapes     : ∀ i < 16, readNat t.mem (areaAt base tgt (0x400 + 64 * i)) 64 = (x.shapeActive i).settle.base.toNat ∧
    readNat t.mem (areaAt base tgt (0x800 + 64 * i)) 64 = (x.shapeShadow i).settle.base.toNat
  vectors    : ∀ r < 32, readNat t.mem (areaAt base tgt (0x1000 + 256 * r)) 256 = (x.vreg r).settle.base.toNat

/-- The trap record of a fault of a context x (R365). -/
structure RecordSaved (t : State) (x : Ctx) (f : FaultInfo) (base : Word) (tgt : Nat → Nat) : Prop where
  cause   : readNat t.mem (areaAt base tgt 0) 8 = tcauseOf f
  address : readNat t.mem (areaAt base tgt 8) 8 = f.faddr.toNat
  place   : readNat t.mem (areaAt base tgt 16) 8 = (f.op.toNat * 2 ^ 48 + f.slot * 2 ^ 40 + f.pos * 2 ^ 32 + f.fent % 2 ^ 32) % 2 ^ 64
  resume  : readNat t.mem (areaAt base tgt 24) 4 = x.entry % 2 ^ 32
  fronts  : ∀ n < 8, readNat t.mem (areaAt base tgt (32 + 4 * n)) 4 = max (Sparse.get 0 x.front n) x.entry % 2 ^ 32
  details : readNat t.mem (areaAt base tgt 64) 8 = f.det0.toNat ∧ readNat t.mem (areaAt base tgt 72) 8 = f.det1.toNat

/-- A trap has been taken from a context of task tk, as it stood at its stop, x (R353, R356): record and registers saved, TCAUSE, EPC and
SSTAT written, supervisor mode, dispatch at TVEC with entry 1, s1 naming the save area, s2 the task's second argument (R49) and every other
register zero; nothing outside the area's pages and this context changes. -/
structure TrapTaken (s t : State) (c : Nat) (x : Ctx) (f : FaultInfo) (tk : Task) (base tvec : Word) (tgt : Nat → Nat) : Prop where
  goesTo   : (t.ctx c).pc = tvec ∧ (t.ctx c).entry = 1 ∧ (t.ctx c).queue = [] ∧ (t.ctx c).redirects = [] ∧ (t.ctx c).nulls = [] ∧ (t.ctx c).loop = none
  cause    : ∃ w, (t.ctx c).csrCell csrTCAUSE = Cell.of w ∧ w.toNat = tcauseOf f
  epc      : (t.ctx c).csrCell csrEPC = Cell.of x.pc
  mode     : (t.ctx c).supervisor = true ∧ ((t.ctx c).csrCell csrSSTAT).settled.getLsbD 1 = x.chkv
  scalars  : (t.ctx c).sreg 1 = Cell.of base ∧ (t.ctx c).sreg 2 = Cell.of tk.trec.arg2 ∧ ∀ r, r ≠ 1 → r ≠ 2 → (t.ctx c).sreg r = Cell.of 0
  others   : (∀ r, (t.ctx c).preg r = Cell.of 0) ∧ (∀ r, (t.ctx c).vreg r = Cell.of 0) ∧ ∀ r, (t.ctx c).shapeActive r = Cell.of 0
  task     : (t.ctx c).task = (s.ctx c).task
  saved    : RegistersSaved t x base tgt
  record   : RecordSaved t x f base tgt
  memory   : ∀ a, (∀ p < 3, a ∉ span (tgt (base.toNat / 4096 + p)) 4096) → byteAt t.mem a = byteAt s.mem a
  rest     : KeepsTags s t ∧ ∀ k, k ≠ c → t.ctx k = s.ctx k

/-- A fault record of the syllable in issue with a class and an immediate (R362, R365). -/
def State.softFault (s : State) (cls : BitVec 8) (imm : BitVec 16) : FaultInfo :=
  ⟨cls, 0, imm, 0, 0, s.cur.op, s.cur.slot.num, s.cur.pos, s.cur.entry, s.cur.pc, false, false⟩

/-- A task of a context, not speculative and in user mode, can take the trap of a fault f at once: the context can be saved, and its slots have
nothing left to issue below the fault's entry (R352, R353). -/
def TrapReady (s : State) (c : Nat) (f : FaultInfo) (tk : Task) (base tvec : Word) (tgt : Nat → Nat) : Prop :=
  SaveReady s c base tvec tgt ∧ (s.ctx c).task = some tk ∧ tk.fault = none ∧ tk.dead = false ∧ tk.trec.conds = [] ∧ (s.ctx c).supervisor = false ∧
    (s.ctx c).draining f = false

/-- A fault's stop entry (R353): its own for a precise fault; for an imprecise one slots stop where they stand (R359). -/
def Ctx.stopOf (x : Ctx) (f : FaultInfo) : Nat := if f.imprec then x.entry else f.fent

end Sys2Proof.Machine

/-- R352 to R356, R358, R359, R362 to R368: a fault of a task that is not speculative, in user mode, takes the trap; in supervisor mode, or of class
0x24, it kills the task, which leaves its record and its join word BROKEN. At the stop the frontier of a slot with a syllable left is that
syllable's entry; one with bubbles alone has issued at least those below the stop entry (which more is the model's reading, log 17), and slot K's passes a TRAP or BRK that is taken; a CHKEQ mismatch that is taken notes its values. (Where the
row of a shape register holds its fields is the model's layout, log 7.) Dispatch
stands at the least frontier with the address, delay state and loop state it had there, or where it stood when nothing is queued, a redirect
that is due applied. -/
def Obligations.FaultsTakeTheTrap : Prop :=
  (∀ (c : Nat) (s : State) (f : FaultInfo) (tk : Task) (base tvec : Word) (tgt : Nat → Nat), TrapReady s c f tk base tvec tgt → f.cls ≠ 0x24 → f.cls ≠ 0x26 →
    TrapTaken s ((s.noteFault c f).deliver c) c (((s.ctx c).stop ((s.ctx c).stopOf f) s.free f.trapEntry).noteCheck f) f tk base tvec tgt) ∧
  (∀ (c : Nat) (s : State) (f : FaultInfo) (tk : Task) (base tvec : Word) (tgt : Nat → Nat), SaveReady s c base tvec tgt → (s.ctx c).task = some tk →
    tk.fault = none → tk.dead = false → tk.effects = [] → (s.ctx c).draining f = false → (s.ctx c).supervisor = true ∨ f.cls = 0x24 →
    let t := (s.noteFault c f).deliver c
    (t.ctx c).task = none ∧ (t.taskInfo tk.uid).ended = true ∧ readNat t.mem (areaAt base tgt 8) 8 = f.faddr.toNat ∧
      (∀ pa, locPA (coreOf c) tk.trec.join = some pa → tagAt t.tags pa = tagBroken) ∧
      (∀ a, (∀ p < 3, a ∉ span (tgt (base.toNat / 4096 + p)) 4096) → byteAt t.mem a = byteAt s.mem a) ∧
      ∀ k, k ≠ c → t.ctx k = { s.ctx k with queue := (t.ctx k).queue }) ∧
  ∀ (x : Ctx) (n f : Nat) (trap : Option Nat),
    (∀ sl d, (sl = .k → trap = none) → x.nextOf sl = some d → Sparse.get 0 (x.stop n f trap).front sl.num = d.entry) ∧
    (∀ k, trap = some k → Sparse.get 0 (x.stop n f trap).front Slot.k.num = k + 1) ∧
    (∀ sl, (sl = .k → trap = none) → x.nextOf sl = none →
      let lo := max (Sparse.get 0 x.front sl.num) (min n x.entry)
      lo ≤ Sparse.get 0 (x.stop n f trap).front sl.num ∧ Sparse.get 0 (x.stop n f trap).front sl.num ≤ max lo x.entry) ∧
    (∀ d ∈ x.queue, (x.queue.map Disp.entry).Pairwise (· < ·) → d.entry ≤ x.entry → (∀ sl : Slot, d.entry ≤ Sparse.get 0 (x.stop n f trap).front sl.num) →
      (∃ sl : Slot, Sparse.get 0 (x.stop n f trap).front sl.num = d.entry) →
      ((x.stop n f trap).entry, (x.stop n f trap).pc, (x.stop n f trap).redirects, (x.stop n f trap).nulls, (x.stop n f trap).loop) = (d.entry, d.pc, d.redirects, d.nulls, d.loop)) ∧
    (x.queue = [] → (x.stop n f trap).entry = x.entry ∧ (x.stop n f trap).pc = x.redirectDue.getD x.pc) ∧ (x.stop n f trap).queue = []

namespace Sys2Proof.Machine

/-- Dispatch of a context comes to its next bundle: nothing holds it, no redirect is due and no loop stands at a boundary (R35, R37, R146, R153). -/
def State.atBundle (s : State) (c : Nat) : Prop :=
  s.mayDispatch c = true ∧ (s.ctx c).redirectDue = none ∧ ∀ l, (s.ctx c).loop = some l → l.started = true

/-- A fault raised at dispatch with the fields of R367. -/
def State.bundleFault (s : State) (c : Nat) (cls sub : BitVec 8) (op : BitVec 6) (slot pos : Nat) : FaultInfo :=
  ⟨cls, sub, 0, 0, 0, op, slot, pos, (s.ctx c).entry, (s.ctx c).pc, false, false⟩

/-- The next bundle would make the charge of a task exceed its budget (R305): the entries that pre-emption and a drain in progress have added are
not charged, nor is a bundle of a drain's added passes. -/
def State.overruns (s : State) (c : Nat) (tk : Task) : Prop :=
  tk.trec.budget < (s.ctx c).entry - (s.ctx c).added - (if (s.ctx c).loop.any (fun l => l.adds && l.limit ≤ l.pass) then 1 else 0)

/-- The next bundle decodes and owes an engine an MNOP that it does not hold, MA before MB (R243): the engine's slot number. -/
def State.owes (s : State) (c : Nat) (l : List Queued) (slot : Nat) : Prop :=
  s.fetchBundle c = .ok (.ok l) ∧ (s.ctx c).supervisor = false ∧
    ((slot = 3 ∧ (s.ctx c).fmtA.owed = some (s.ctx c).entry ∧ hasMnop 0 l = false) ∨
      (slot = 4 ∧ (s.ctx c).fmtB.owed = some (s.ctx c).entry ∧ hasMnop 1 l = false ∧
        ((s.ctx c).fmtA.owed ≠ some (s.ctx c).entry ∨ hasMnop 0 l = true)))

/-- The next bundle decodes and owes no MNOP. -/
def State.owesNone (s : State) (c : Nat) : Prop :=
  ∃ l, s.fetchBundle c = .ok (.ok l) ∧ ((s.ctx c).fmtA.owed = some (s.ctx c).entry → hasMnop 0 l = true) ∧
    ((s.ctx c).fmtB.owed = some (s.ctx c).entry → hasMnop 1 l = true)

/-- The debt of an MNOP is discharged, and nothing else changes. -/
def Discharged (s u : State) (c slot : Nat) : Prop :=
  u = s.modCtx c fun x => if slot = 3 then { x with fmtA := { x.fmtA with owed := none } } else { x with fmtB := { x.fmtB with owed := none } }

end Sys2Proof.Machine

/-- R160, R374, R66, R50, R305, R243, R352, R360: TRAP and BRK take their trap, and their slot's frontier then passes their entry (which
frontiers bubble slots have is the model's reading, log 17; where the row of a shape register holds its fields is the model's layout, log 7); CHKEQ of equal
values only issues, of different ones it faults with both values, notes them where that fault is taken, and decides by them when it replays; an undefined encoding, an engine's missing
MNOP and a bundle over budget fault at dispatch, in this order. Each of the six completes: where its task can take a trap, the next state is
the one after the entry into its handler. -/
def Obligations.TrapsChecksAndDispatchFaults : Prop :=
  (∀ (s : State) (imm : BitVec 16),
    exec (.trap imm) s = .next ((s.noteFault s.cur.ctx (s.softFault 0x0E imm)).deliver s.cur.ctx) ∧
    exec (.brk imm) s = .next ((s.noteFault s.cur.ctx (s.softFault 0x0F imm)).deliver s.cur.ctx)) ∧
  (∀ (s : State) (imm : BitVec 16) (tk : Task) (base tvec : Word) (tgt : Nat → Nat),
    let x := s.cx.stop s.cur.entry s.free (some s.cur.entry)
    TrapReady s s.cur.ctx (s.softFault 0x0E imm) tk base tvec tgt →
    (∃ t : State, exec (.trap imm) s = .next t ∧ TrapTaken s t s.cur.ctx x (s.softFault 0x0E imm) tk base tvec tgt) ∧
    (∃ t : State, exec (.brk imm) s = .next t ∧ TrapTaken s t s.cur.ctx x (s.softFault 0x0F imm) tk base tvec tgt)) ∧
  (∀ (a b : BitVec 5) (s : State) (va vb : Word), s.hasS a va → s.hasS b vb →
    (s.cx.chkv = false → va = vb → ∃ t : State, exec (.chkeq a b) s = .next t ∧ Advances s t ∧ RegFrame s t [] [] [] []) ∧
    (s.cx.chkv = false → va ≠ vb → exec (.chkeq a b) s = .next (s.raise (flt 0x0C 0 va vb))) ∧
    (s.cx.chkv = true →
      (s.cur.pc = s.cx.chkpc → va = vb → va = s.cx.chka ∨ va = s.cx.chkb →
        ∃ t : State, exec (.chkeq a b) s = .next t ∧ (t.ctx s.cur.ctx).chkv = false ∧ Advances s t ∧ KeepsDevice s t ∧ KeepsMemory s t ∧ KeepsTags s t) ∧
      (s.cur.pc ≠ s.cx.chkpc ∨ va ≠ vb ∨ (va ≠ s.cx.chka ∧ va ≠ s.cx.chkb) →
        exec (.chkeq a b) s = .next (s.raise (flt 0x24 0 va vb))))) ∧
  (∀ (a b : BitVec 5) (s : State) (va vb : Word) (tk : Task) (base tvec : Word) (tgt : Nat → Nat), s.hasS a va → s.hasS b vb → s.cx.chkv = false → va ≠ vb →
    let f := { s.softFault 0x0C 0 with det0 := va, det1 := vb }
    TrapReady s s.cur.ctx f tk base tvec tgt →
    ∃ t : State, exec (.chkeq a b) s = .next t ∧
      TrapTaken s t s.cur.ctx { s.cx.stop s.cur.entry s.free none with chkv := true, chka := va, chkb := vb, chkpc := s.cur.pc } f tk base tvec tgt) ∧
  (∀ (c : Nat) (s : State), s.atBundle c →
    (∀ b, s.fetchBundle c = .ok (.error b) →
      exec (.undefinedEncodingTrap c) s = .next ((s.noteFault c (s.bundleFault c 0x01 0 b.op b.slot b.pos)).deliver c)) ∧
    (∀ tk, (s.ctx c).task = some tk → (s.ctx c).supervisor = false → s.overruns c tk → s.owesNone c →
      exec (.budgetOverrun c) s = .next ((s.noteFault c (s.bundleFault c 0x0A 0 0 0 0)).deliver c)) ∧
    (∀ l slot, s.owes c l slot → ∃ u : State, Discharged s u c slot ∧
      exec (.noMnop c) s = .next ((u.noteFault c (s.bundleFault c 0x09 3 0x07 slot 0)).deliver c))) ∧
  (∀ (c : Nat) (s : State) (tk : Task) (base tvec : Word) (tgt : Nat → Nat), s.atBundle c →
    let x := (s.ctx c).stop (s.ctx c).entry s.free none
    (∀ b, s.fetchBundle c = .ok (.error b) → TrapReady s c (s.bundleFault c 0x01 0 b.op b.slot b.pos) tk base tvec tgt →
      ∃ t : State, exec (.undefinedEncodingTrap c) s = .next t ∧ TrapTaken s t c x (s.bundleFault c 0x01 0 b.op b.slot b.pos) tk base tvec tgt) ∧
    (s.overruns c tk → s.owesNone c → TrapReady s c (s.bundleFault c 0x0A 0 0 0 0) tk base tvec tgt →
      ∃ t : State, exec (.budgetOverrun c) s = .next t ∧ TrapTaken s t c x (s.bundleFault c 0x0A 0 0 0 0) tk base tvec tgt) ∧
    (∀ l slot, s.owes c l slot → TrapReady s c (s.bundleFault c 0x09 3 0x07 slot 0) tk base tvec tgt →
      ∃ t : State, exec (.noMnop c) s = .next t ∧ TrapTaken s t c x (s.bundleFault c 0x09 3 0x07 slot 0) tk base tvec tgt))

namespace Sys2Proof.Machine

/-- A save area's pages are readable through a core's translation cache. -/
def State.areaReadable (s : State) (q : Nat) (pasid : BitVec 20) (base : Word) (tgt : Nat → Nat) : Prop :=
  base.toNat % 4096 = 0 ∧ base.toNat + 2 ^ 23 ≤ 2 ^ 57 ∧
    ∀ p < 2048, ∃ r w, findPage [] (s.core q).tlb pasid (base.toNat / 4096 + p) false = some (.at (tgt (base.toNat / 4096 + p)) r w)

/-- Bytes of a save area. -/
def State.areaBytes (s : State) (base : Word) (tgt : Nat → Nat) (off n : Nat) : List Byte :=
  (List.range n).map fun i => byteAt s.mem (areaAt base tgt (off + i))

/-- The registers of a context are those of a save area, and so are its loop, its lent banks, its arrival and its CHKEQ state (R357, R368; where
the row at 0xC00 holds each is the model's layout, log 7). -/
structure Restored (s t : State) (c : Nat) (base : Word) (tgt : Nat → Nat) : Prop where
  scalars    : ∀ r < 32, 0 < r → (t.ctx c).sreg r = Cell.of (BitVec.ofNat 64 (readNat s.mem (areaAt base tgt (0x100 + 8 * r)) 8))
  predicates : ∀ r < 12, 0 < r → (t.ctx c).preg r = Cell.of (BitVec.ofNat 64 (readNat s.mem (areaAt base tgt (0x200 + 8 * r)) 8))
  vectors    : ∀ r < 32, (t.ctx c).vreg r = Cell.of (BitVec.ofNat 2048 (readNat s.mem (areaAt base tgt (0x1000 + 256 * r)) 256))
  control    : (t.ctx c).csrCell csrCTL = Cell.of (BitVec.ofNat 64 (readNat s.mem (areaAt base tgt 0x280) 8))
  templates  : ∀ i < 32, (t.ctx c).csrCell (16 + i) = Cell.of (BitVec.ofNat 64 (readNat s.mem (areaAt base tgt (0x300 + 8 * i)) 8))
  shapes     : ∀ i < 16, (t.ctx c).shapeActive i = Cell.of (BitVec.ofNat 512 (readNat s.mem (areaAt base tgt (0x400 + 64 * i)) 64)) ∧
    (t.ctx c).shapeShadow i = Cell.of (BitVec.ofNat 512 (readNat s.mem (areaAt base tgt (0x800 + 64 * i)) 64))
  row        : let y := Ctx.idle.loadContext (s.areaBytes base tgt)
    (t.ctx c).loop = y.loop ∧ (t.ctx c).lend = y.lend ∧ (t.ctx c).arrival = y.arrival ∧ (t.ctx c).waitP0 = y.waitP0 ∧
      (t.ctx c).chka = y.chka ∧ (t.ctx c).chkb = y.chkb ∧ (t.ctx c).chkpc = y.chkpc

/-- The formats and the transpose unit of a context are those of a save area (R368; log 7). -/
def UnitsRestored (s t : State) (c : Nat) (base : Word) (tgt : Nat → Nat) : Prop :=
  let y := Ctx.idle.loadEngines (s.areaBytes base tgt)
  (t.ctx c).fmtA = y.fmtA ∧ (t.ctx c).fmtB = y.fmtB ∧ (t.ctx c).tu.rows = y.tu.rows ∧ (t.ctx c).tu.size = y.tu.size ∧ (t.ctx c).tu.rc = y.tu.rc ∧
    (t.ctx c).tu.cc = y.tu.cc ∧ (t.ctx c).tu.buf = y.tu.buf ∧
    (t.ctx c).scaleA = Cell.of (BitVec.ofNat 4096 (readNat s.mem (areaAt base tgt 0x3000) 512)) ∧
    (t.ctx c).scaleB = Cell.of (BitVec.ofNat 4096 (readNat s.mem (areaAt base tgt 0x3200) 512))

/-- What of a context's state the rows at 0xC00 and 0xD00 must hold lies in the fields that the model gives it there (log 7). -/
structure FitsRows (x : Ctx) : Prop where
  loop    : ∀ l, x.loop = some l → l.stages < 2 ^ 8 ∧ l.len < 2 ^ 8 ∧ l.pos < 2 ^ 32 ∧ l.count < 2 ^ 128 ∧ l.pass < 2 ^ 128 ∧ l.first < 2 ^ 128 ∧
    l.limit < 2 ^ 128 ∧ (l.kind = .loop → l.bounds = []) ∧ (l.kind ≠ .loop → l.bounds.length = 6 ∧ ∀ b ∈ l.bounds, b < 2 ^ 16)
  lend    : x.lend.length = 4 ∧ ∀ k ∈ x.lend, k.since < 2 ^ 64
  arrival : ∀ p, x.arrival = some p → p.1 < 2 ^ 192 ∧ p.2 + 1 < 2 ^ 64
  wait    : ∀ p, x.waitP0 = some p → p + 1 < 2 ^ 128
  formats : ∀ k ∈ [x.fmtA, x.fmtB], k.since < 2 ^ 64 ∧ (∀ n, k.lastPush = some n → n + 1 < 2 ^ 64) ∧ ∀ n, k.owed = some n → n + 1 < 2 ^ 64
  turn    : x.tu.rows < 2 ^ 64 ∧ x.tu.rc < 2 ^ 64 ∧ x.tu.cc < 2 ^ 64

/-- Bytes of a row that stands at an offset. -/
def rowBytes (at' : Nat) (row : List Byte) (off n : Nat) : List Byte := (row.drop (off - at')).take n

/-- The dirty entries of the translation caches and the log of one PASID, with one dirty entry e and room for it, have been harvested: the entry
is logged and PRODUCE moves on, every cached entry of the PASID is clean, no other byte changes (R401 to R403). -/
def Harvested (s t : State) (pasid : BitVec 20) (d : DLog) (e : TEntry) : Prop :=
  let a := ioPA d.fn d.base
  let p := readNat s.mem a 4
  readNat t.mem (a + 64 + 16 * (p % d.entries)) 8 = (e.vpage * pageBytes e.size + e.size.toNat) % 2 ^ 64 ∧
    readNat t.mem (a + 64 + 16 * (p % d.entries) + 8) 8 = e.pasid.toNat * 2 ^ 44 ∧ readNat t.mem a 4 = (p + 1) % 2 ^ 32 ∧
    (∀ x, x ∉ span a 4 → x ∉ span (a + 64 + 16 * (p % d.entries)) 16 → byteAt t.mem x = byteAt s.mem x) ∧
    ∀ q, (t.core q).tlb = (s.core q).tlb.map fun k => if k.pasid = pasid then { k with dirty := false } else k

/-- A PASID has a log with room, and one dirty page. -/
def State.oneDirty (s : State) (pasid : BitVec 20) (d : DLog) (e : TEntry) : Prop :=
  s.dlogs.find? (fun l => l.1 = pasid.toNat) = some (pasid.toNat, d) ∧ (∀ k ∈ s.unlogged, k.pasid ≠ pasid) ∧
    s.cores.flatMap (fun q => q.2.tlb.filter fun k => k.pasid = pasid && k.dirty) = [e] ∧
    (readNat s.mem (ioPA d.fn d.base) 4 + 2 ^ 32 - readNat s.mem (ioPA d.fn d.base + 8) 4) % 2 ^ 32 < d.entries

end Sys2Proof.Machine

/-- R161, R33, R357, R403, R353, R368, R371, R283, R203, R359: ERET restores the context from its save area and goes on at EPC in user mode, or with
TCAUSE.FATAL frees it; what a save writes of loop, lent banks, arrival, waits, CHKEQ, formats and transpose unit, a restore reads; YIELD issues and
dispatch moves to the next ready context; HARVEST logs the dirty pages of its PASID; a pre-emption request saves the context at its
point, a waiting syllable's context with EPC at that syllable's bundle, and RESUME restores it; IMPRECISE_FAULT detects the fault of its context
that its class, sub-cause and address name. The model's choices and readings in this: the layout of the rows (log 7), the flags that ERET keeps (log 22), CHKV
from SSTAT bit 1 at ERET (log 40), an IMPRECISE_FAULT that names no fault (log 41), and the error of a restore whose zero fields are not zero (log 88). -/
def Obligations.ReturnsAndSwitches : Prop :=
  (∀ (s : State) (tk : Task) (k : UserSave) (base epc sstat cause : Word) (tgt : Nat → Nat), s.cx.task = some tk → s.cx.supervisor = true → s.cx.saved = some k →
    (∀ m ∈ s.moves, m.ctx = s.cur.ctx → m.id < k.firstId) → s.cx.stores = [] → s.cx.pages = [] →
    s.hasCsr csrTREC base → s.hasCsr csrEPC epc → s.hasCsr csrSSTAT sstat → s.hasCsr csrTCAUSE cause →
    (cause.getLsbD 9 = true → tk.dead = false → (∀ m ∈ s.moves, m.ctx ≠ s.cur.ctx) → (∀ m ∈ s.msends, m.ctx ≠ s.cur.ctx) →
      (∀ m ∈ s.eoss, m.ctx ≠ s.cur.ctx) → ∃ t : State, exec .eret s = .next t ∧ (t.ctx s.cur.ctx).task = none ∧ (t.taskInfo tk.uid).ended = true) ∧
    (cause.getLsbD 9 = false → k.stores = [] → k.pops = [] → k.sldA = [] → k.sldB = [] → k.preds = [] → s.areaReadable (coreOf s.cur.ctx) tk.pasid base tgt →
      zeroFields (s.areaBytes base tgt) 0 = true →
      BitVec.ofNat 64 (epc.toNat / 4 * 4) = k.pc ∨ (Ctx.idle.loadContext (s.areaBytes base tgt)).loop = none →
      ∃ t : State, exec .eret s = .next t ∧ (t.ctx s.cur.ctx).pc = BitVec.ofNat 64 (epc.toNat / 4 * 4) ∧
        (t.ctx s.cur.ctx).entry = readNat s.mem (areaAt base tgt 24) 4 ∧ (t.ctx s.cur.ctx).queue = [] ∧
        (∀ n < 8, Sparse.get 0 (t.ctx s.cur.ctx).front n = readNat s.mem (areaAt base tgt (32 + 4 * n)) 4) ∧
        (t.ctx s.cur.ctx).redirects =
          (if sstat.getLsbD 31 then [(readNat s.mem (areaAt base tgt 24) 4 + sstat.toNat / 2 ^ 29 % 4, BitVec.ofNat 64 (readNat s.mem (areaAt base tgt 80) 8))] else []) ++
          (if sstat.getLsbD 28 then [(readNat s.mem (areaAt base tgt 24) 4 + sstat.toNat / 2 ^ 26 % 4, BitVec.ofNat 64 (readNat s.mem (areaAt base tgt 88) 8))] else []) ∧
        (∀ e, e ∈ (t.ctx s.cur.ctx).nulls ↔ (e = readNat s.mem (areaAt base tgt 24) 4 ∧ sstat.getLsbD 24 = true) ∨
          (e = readNat s.mem (areaAt base tgt 24) 4 + 1 ∧ sstat.getLsbD 25 = true)) ∧
        (t.ctx s.cur.ctx).csrCell csrFST = Cell.of (BitVec.ofNat 64 (readNat s.mem (areaAt base tgt 0x288) 8) ||| k.fst) ∧
        (t.ctx s.cur.ctx).csrCell csrATTN = Cell.of (BitVec.ofNat 64 (readNat s.mem (areaAt base tgt 0x290) 8) ||| k.attn) ∧
        (t.ctx s.cur.ctx).supervisor = false ∧ (t.ctx s.cur.ctx).chkv = sstat.getLsbD 1 ∧
        (t.ctx s.cur.ctx).saved = none ∧ Restored s t s.cur.ctx base tgt ∧ (t.ctx s.cur.ctx).task = some tk ∧ KeepsMemory s t ∧ KeepsTags s t ∧
        ∀ c, c ≠ s.cur.ctx → t.ctx c = s.ctx c) ∧
    (cause.getLsbD 9 = false → k.stores = [] → k.pops = [] → k.sldA = [] → k.sldB = [] → s.areaReadable (coreOf s.cur.ctx) tk.pasid base tgt →
      zeroFields (s.areaBytes base tgt) 0 = false →
      ∃ u : State, exec .eret s = .next (u.raise (flt 0x02 2 0 0)) ∧ u.cx.supervisor = true ∧ u.cx.task = some tk ∧ KeepsMemory s u ∧ KeepsTags s u)) ∧
  (∀ (x y : Ctx) (count : Nat), FitsRows x →
    let z := y.loadContext (rowBytes 0xC00 (contextRow x count))
    let w := y.loadEngines fun off n => if off < 0x3400 then rowBytes 0xD00 (engineRow x) off n else rowBytes 0x3400 x.tuBytes off n
    z.loop = x.loop ∧ z.lend = x.lend ∧ z.arrival = x.arrival ∧ z.waitP0 = x.waitP0 ∧ z.chka = x.chka ∧ z.chkb = x.chkb ∧ z.chkpc = x.chkpc ∧
      z.chkv = x.chkv ∧ w.fmtA = x.fmtA ∧ w.fmtB = x.fmtB ∧ w.tu.rows = x.tu.rows ∧ w.tu.size = x.tu.size ∧ w.tu.rc = x.tu.rc ∧ w.tu.cc = x.tu.cc ∧
      ∀ r < 64, Sparse.get (0 : VReg) w.tu.buf r = Sparse.get 0 x.tu.buf r) ∧
  (∀ s : State, ∃ t : State, exec .yield s = .next t ∧ Advances s t ∧ KeepsMemory s t ∧ KeepsTags s t ∧ KeepsRegs s t [] [] [] [] ∧ KeepsUnits s t ∧
    (∀ c, c ≠ s.cur.ctx → t.ctx c = s.ctx c) ∧
    ((s.core (coreOf s.cur.ctx)).running = s.cur.ctx % 4 → (t.core (coreOf s.cur.ctx)).seek = true)) ∧
  (∀ (q c : Nat) (s : State), (s.core q).running < 4 → (s.core q).seek = true → (∀ e, e / 4 = q → s.lingers e = false) →
    ([1, 2, 3, 4].map fun i => 4 * q + ((s.core q).running + i) % 4).find? s.ready = some c →
    ∃ u : State, s.coreTurn q = u.turnOf c ∧ (u.core q).running = c % 4 ∧ (u.core q).seek = false ∧ u.ctxs = s.ctxs ∧ u.mem = s.mem ∧ u.tags = s.tags) ∧
  (∀ (s : State) (tk : Task) (d : DLog) (e : TEntry), s.cx.task = some tk → s.cx.supervisor = true → tk.trec.conds = [] → s.cx.stores = [] → s.released →
    (s.oneDirty tk.pasid d e → ∃ t : State, exec .harvest s = .next t ∧ Harvested s t tk.pasid d e ∧ KeepsTags s t ∧ Advances s t ∧
      KeepsRegs s.landSlot t [] [] [] []) ∧
    (s.dlogs.find? (fun l => l.1 = tk.pasid.toNat) = none → ∃ t : State, exec .harvest s = .next t ∧ RegFrame s.landSlot t [] [] [] [] ∧ Advances s t)) ∧
  (∀ (c : Nat) (s : State) (tk : Task), (s.ctx c).task = some tk → tk.dead = false →
    (s.preemptPoint c = false → ∃ t : State, exec (.preemptionRequest c) s = .next t ∧ (t.ctx c).preemptReq = true ∧ (t.ctx c).task = some tk ∧
      (t.ctx c).pc = (s.ctx c).pc ∧ t.mem = s.mem ∧ t.tags = s.tags ∧ ∀ k, k ≠ c → t.ctx k = s.ctx k) ∧
    (∀ base tvec tgt, SaveReady s c base tvec tgt → s.preemptPoint c = true → tk.trec.conds = [] →
      let x := (s.ctx c).stop (s.ctx c).entry s.free none
      (∀ l, x.loop = some l → l.drained = false) →
      ∃ (t : State) (sv : SavedTask), exec (.preemptionRequest c) s = .next t ∧ (t.ctx c).task = none ∧ t.saved = s.saved ++ [sv] ∧ sv.home = c ∧
        sv.ctx.task = some tk ∧ sv.fault = none ∧ sv.moved = false ∧ sv.ctx.pc = x.pc ∧ sv.ctx.entry = x.entry ∧ sv.ctx.queue = [] ∧
        sv.ctx.csrCell csrEPC = Cell.of x.pc ∧ sv.ctx.csrCell csrPREEMPT = Cell.of 0 ∧
        (∃ ds, sv.ctx.csrCell csrSSTAT = Cell.of ds ∧ ds.getLsbD 0 = false ∧ ds.getLsbD 1 = x.chkv ∧ ds.getLsbD 24 = x.nulls.contains x.entry ∧
          ds.getLsbD 25 = x.nulls.contains (x.entry + 1)) ∧
        RegistersSaved t x base tgt ∧ KeepsTags s t ∧
        (let w := partWindow (ctlPart ((s.ctx c).csrCell csrCTL).settle.base)
         ∀ i < 16384 * w.2, byteAt t.mem (areaAt base tgt (0x21000 + i)) = byteAt s.mem (tilePA (coreOf c) w.1 0 + i)) ∧
        (∀ a, (∀ p < 2048, a ∉ span (tgt (base.toNat / 4096 + p)) 4096) → byteAt t.mem a = byteAt s.mem a) ∧ ∀ k, k ≠ c → t.ctx k = s.ctx k)) ∧
  (∀ (c : Nat) (s : State) (sv : SavedTask) (tk : Task) (base : Word) (tgt : Nat → Nat), (s.ctx c).task = none → (s.ctx c).restore = none →
    s.saved.find? (fun v => v.ctx.uid = tk.uid) = some sv → sv.ctx.task = some tk → sv.moved = false → sv.fault = none → tk.fault = none → s.canResume sv tk c = true →
    sv.ctx.csrCell csrTREC = Cell.of base → sv.ctx.inflightRecord = [] → sv.ctx.stores = [] → (∀ e ∈ sv.ctx.p, e.2.pend = []) →
    s.areaReadable (coreOf c) tk.pasid base tgt → (∀ x, (s.ctx x).stores = []) →
    (zeroFields (s.areaBytes base tgt) 0 = false → tk.dead = false → ∃ t : State, exec (.resume tk.uid c) s = .next t ∧ (t.taskInfo tk.uid).ended = true) ∧
    (zeroFields (s.areaBytes base tgt) 0 = true →
     ∃ t : State, exec (.resume tk.uid c) s = .next t ∧ (t.ctx c).task = some tk ∧ (t.ctx c).pc = sv.ctx.pc ∧ (t.ctx c).entry = sv.ctx.entry ∧
      (t.ctx c).chkv = (Ctx.idle.loadContext (s.areaBytes base tgt)).chkv ∧ (t.ctx c).restore = none ∧ Restored s t c base tgt ∧ UnitsRestored s t c base tgt ∧ t.saved = s.saved.filter (fun o => o ≠ sv) ∧ KeepsTags s t ∧
      (let w := partWindow (ctlPart (sv.ctx.csrCell csrCTL).settle.base)
       (∀ i < 16384 * w.2, byteAt t.mem (tilePA (coreOf c) w.1 0 + i) = byteAt s.mem (areaAt base tgt (0x21000 + i))) ∧
       ∀ a, a ∉ span (tilePA (coreOf c) w.1 0) (16384 * w.2) → byteAt t.mem a = byteAt s.mem a))) ∧
  (∀ (c : Nat) (s : State) (cls sub : BitVec 8) (addr : Word),
    let u := s.modCtx c fun x => { x with late := [] }
    (∀ k, (s.ctx c).late.find? (fun k => k.2.cls = cls && k.2.sub = sub && k.2.det0 = addr) = some k →
      exec (.impreciseFault c cls sub addr) s = .next ((u.noteFault c k.2).deliver c) ∧
      ∀ tk base tvec tgt, TrapReady u c k.2 tk base tvec tgt → k.2.imprec = true → cls ≠ 0x24 → cls ≠ 0x26 →
        ∃ t : State, exec (.impreciseFault c cls sub addr) s = .next t ∧
          TrapTaken s t c (((s.ctx c).stop (s.ctx c).entry s.free k.2.trapEntry).noteCheck k.2) k.2 tk base tvec tgt) ∧
    ((∀ k ∈ (s.ctx c).late, k.2.cls ≠ cls ∨ k.2.sub ≠ sub ∨ k.2.det0 ≠ addr) → exec (.impreciseFault c cls sub addr) s = .next s))

namespace Sys2Proof.Machine

/-- An access through the fabric with a key, of n bytes at an aperture offset, reaches an object: the export entry that holds the offset has the
key, the range and the permission, its object is live and passes the role check, no RECAST has closed the range, and the object is not broken
(R196, R199, R274, R407). -/
def State.opens (s : State) (key : BitVec 32) (off n perm : Nat) (use : Use) (uid d j a : Nat) (o : Obj) : Prop :=
  ∃ i e, s.exports.find? (fun x => x.2.start ≤ off && off < x.2.start + x.2.len) = some (i, e) ∧ e.key = key ∧ off + n ≤ e.start + e.len ∧
    e.perm.getLsbD perm = true ∧ e.die = d ∧ e.slot = j ∧ a = off - e.start + e.off ∧ s.obj d j = some o ∧ o.live = true ∧ o.gen = e.gen ∧
    o.check use uid a n 0 = .ok () ∧ o.isClosed a n = false ∧ o.brk = false

/-- A request is answered with a cause and bytes, and no byte of memory has changed. -/
def Answers (s t : State) (source : Nat) (cause : BitVec 8) (bytes : List Byte) : Prop :=
  t.out = s.out ++ [Msg.fabricReply source cause bytes] ∧ t.ctxs = s.ctxs ∧ KeepsTags s t

/-- The physical number of a byte of a page of a size whose translation is a target. -/
def pageTarget (target : Nat) (size : BitVec 2) (page : Nat) : Nat :=
  target / pageBytes size * pageBytes size + page * 4096 % pageBytes size

end Sys2Proof.Machine

/-- R398 to R402, R276, R278 (that the low bits of a target below its page's size are ignored is the model's reading, log 5, and the stop unbackedMemory, for
a page that lies in no memory of the machine, is the model's own, log 108): a translation response answers the accesses that wait for it and enters the core's cache, or replays a parked store at the
page's target; one of a page of no size of R398 changes nothing; a positive page response asks for the translation of a page with parked stores, a
negative one discards them and faults their task; an invalidation removes every matching entry, and is done once no access translated through it is
in flight; the sweep logs the dirty pages. -/
def Obligations.TranslationEvents : Prop :=
  (∀ (d c page target : Nat) (pasid : BitVec 20) (write rd wr : Bool) (size : BitVec 2) (s : State) (tk : Task),
    (s.die d).ats.find? (fun r => r.pasid = pasid && r.page = page && r.write = write) = some ⟨pasid, page, write, [c], []⟩ → (s.ctx c).task = some tk →
    tk.pasid = pasid → (if write then wr else rd) = true → target / pageBytes size * pageBytes size + pageBytes size ≤ 2 ^ 64 →
    size ≠ 3 → (s.core (coreOf c)).tlb = [] → (∀ k ∈ s.cores, k.2.replay = []) → s.pageOf c page write = none →
    ∃ t : State, exec (.translationResponse d pasid page write (.granted target size rd wr)) s = .next t ∧
      t.pageOf c page write = some (.at (pageTarget target size page) rd wr) ∧
      (t.core (coreOf c)).tlb = [⟨pasid, size, page * 4096 / pageBytes size, target / pageBytes size * pageBytes size, rd, wr, false⟩] ∧
      (∀ r ∈ (t.die d).ats, ¬ (r.pasid = pasid ∧ r.page = page ∧ r.write = write)) ∧ t.mem = s.mem ∧ t.tags = s.tags) ∧
  (∀ (d page target : Nat) (pasid : BitVec 20) (write rd wr : Bool) (size : BitVec 2) (s : State),
    ((s.die d).ats.any fun r => r.pasid = pasid && r.page = page && r.write = write) = true →
    ((rd || wr) = true → size ≠ 3 → backed (target / pageBytes size * pageBytes size) (pageBytes size) = false →
      exec (.translationResponse d pasid page write (.granted target size rd wr)) s = .fault (.unbackedMemory (target / pageBytes size * pageBytes size))) ∧
    exec (.translationResponse d pasid page write (.granted target 3 rd wr)) s = .next s) ∧
  (∀ (d q page target : Nat) (pasid : BitVec 20) (rd : Bool) (size : BitVec 2) (s : State) (p : Parked),
    (s.die d).ats.find? (fun r => r.pasid = pasid && r.page = page && r.write = true) = some ⟨pasid, page, true, [], []⟩ → (s.core q).replay = [p] →
    q / 64 = d → p.ready = true → p.pasid = pasid → p.page = page → p.kind = .bytes → size ≠ 3 → (∀ k ∈ s.cores, k.1 ≠ q → k.2.replay = []) →
    (s.cores.map Prod.fst).Nodup → s.dlogs = [] → target / pageBytes size * pageBytes size + pageBytes size ≤ 2 ^ 64 →
    ∃ t : State, exec (.translationResponse d pasid page true (.granted target size rd true)) s = .next t ∧ (t.core q).replay = [] ∧
      ∀ a, byteAt t.mem a = (storedLast (p.bytes.map fun e => (pageTarget target size page + e.1 % 4096, e.2)) a).getD (byteAt s.mem a)) ∧
  (∀ (d q page : Nat) (pasid : BitVec 20) (s : State) (p : Parked), d < 2 → (∀ r ∈ (s.die 0).pri, d = 1 → r ≠ ⟨pasid, page⟩) → ⟨pasid, page⟩ ∈ (s.die d).pri →
    q / 64 = d → p ∈ (s.core q).replay → p.pasid = pasid → p.page = page → (s.die d).ats.length < 256 →
    (∃ t : State, exec (.pageRequestResponse pasid page true) s = .next t ∧ (⟨pasid, page⟩ : PageReq) ∉ (t.die d).pri ∧ t.mem = s.mem ∧
      (t.core q).replay = (s.core q).replay.map (fun k => if k.pasid = pasid ∧ k.page = page then { k with ready := true } else k) ∧
      ∃ r ∈ (t.die d).ats, r.pasid = pasid ∧ r.page = page ∧ r.write = true) ∧
    ((s.core q).replay = [p] → (∀ k ∈ s.cores, k.1 ≠ q → k.2.replay = []) → (s.cores.map Prod.fst).Nodup → s.moves = [] → p.commit = false →
      (s.ctx p.ctx).uid = p.uid →
      ∃ u : State, exec (.pageRequestResponse pasid page false) s =
        .next ((u.noteFault p.ctx ⟨0x22, 0, 0, BitVec.ofNat 64 (page * 4096), 0, 0, 0, 0, 0, 0, true, true⟩).deliver p.ctx) ∧
        (u.core q).replay = [] ∧ u.mem = s.mem ∧ u.ctxs = s.ctxs)) ∧
  (∀ (pasid : BitVec 20) (start len : Nat) (s : State), s.invals = [] → ((∃ m ∈ s.eoss, m.pasid = pasid ∧ ∃ p ∈ m.vwrite, pageIn start len p = true) ∨
    (∃ m ∈ s.msends, m.pasid = pasid ∧ ∃ p ∈ m.vwrite, pageIn start len p = true) ∨
    ∃ m ∈ s.moves, m.pasid = pasid ∧ ∃ p ∈ m.vread ++ m.vwrite, pageIn start len p = true) →
    ∃ t : State, exec (.invalidationRequest pasid start len) s = .next t ∧ t.out = s.out ∧ t.invals.length = 1 ∧ t.mem = s.mem) ∧
  (∀ (pasid : BitVec 20) (start len : Nat) (s : State), s.moves = [] → s.msends = [] → s.eoss = [] → s.invals = [] →
    (∀ k ∈ s.cores, ∀ e ∈ k.2.tlb, e.within pasid start len = true → e.dirty = false) →
    ∃ t : State, exec (.invalidationRequest pasid start len) s = .next t ∧ (∀ q, (t.core q).tlb = (s.core q).tlb.filter fun e => !e.within pasid start len) ∧
      (∀ c, (s.ctx c).pasid = pasid → ∀ r ∈ (t.ctx c).pages, ¬ (r.page * 4096 < start + len ∧ start < (r.page + 1) * 4096)) ∧
      t.out = s.out ++ [.invalidationDone pasid start len] ∧ t.mem = s.mem) ∧
  (∀ (pasid : BitVec 20) (s : State) (d : DLog) (e : TEntry), s.dlogs = [(pasid.toNat, d)] → s.oneDirty pasid d e →
    ∃ t : State, exec .dirtyLogSweep s = .next t ∧ Harvested s t pasid d e ∧ t.ctxs = s.ctxs)

/-- R193, R194, R196, R204, R382, R391, R405 to R408: a fabric access to an export that admits it reads the bytes of its runs, publishes a Flow range, claims
one and is answered with it once it is published, or folds into a word, and is answered with cause 0; a write, whose task owns no segment of this
device, and any access of which no entry admits a part change nothing and are answered with cause 4; a merged update needs the REDUCE bit of every element's entry and the
operation of its words, and adds fx64add inputs that are converted already; the HBM aperture answers no host access; a due vector sends one message and
disarms. (The form of an answer is the model's choice, log 60; so is that a remote write to an Own segment is refused with cause 4, log 61, and that a
Flow read waits at its home, log 63.) -/
def Obligations.FabricAndBusEvents : Prop :=
  (∀ (src off n d j a : Nat) (key : BitVec 32) (bs : List Byte) (s : State) (o : Obj),
    (∀ l : List (Nat × Nat × Nat), (∀ r ∈ l, ∃ d j a o, s.opens key r.1 r.2.1 0 .read 0 d j a o ∧ r.2.2 = hbmPA (o.base + a)) →
      ∃ t : State, exec (.fabricAccess ⟨src, key, off, .read (l.map fun r => (r.1, r.2.1))⟩) s = .next t ∧
        Answers s t src 0 (l.flatMap fun r => (List.range r.2.1).map fun i => byteAt s.mem (r.2.2 + i)) ∧ t.mem = s.mem) ∧
    (∀ (l : List (Nat × List Byte)) (i : Nat) (e : Export), (off, bs) ∈ l →
      s.exports.find? (fun x => x.2.start ≤ off && off < x.2.start + x.2.len) = some (i, e) → s.obj e.die e.slot = some o →
      (∃ g ∈ o.segsIn (off - e.start + e.off) bs.length, g.2.owner ≠ some 0) → (∀ d j k, s.obj d j = some k → k.closed = []) →
      ∃ t : State, exec (.fabricAccess ⟨src, key, off, .write l⟩) s = .next t ∧ Answers s t src 4 [] ∧ t.mem = s.mem ∧ t.dies = s.dies) ∧
    (∀ st, s.opens key off n 0 .flowRead 0 d j a o → o.stream = some st → n % o.flowSize = 0 → a = st.c →
      ∃ t : State, exec (.fabricAccess ⟨src, key, off, .flowRead n⟩) s = .next t ∧ t.requests = s.requests ++ [⟨⟨src, key, off, .flowRead n⟩, d, j, o.gen, a, n⟩] ∧
        t.out = s.out ∧ t.ctxs = s.ctxs ∧ t.mem = s.mem ∧ KeepsTags s t ∧
        (t.obj d j).bind Obj.stream = some { st with c := match st.final with | some f => min (a + n) f | none => a + n }) ∧
    (∀ st, s.obj d j = some o → o.brk = false → o.stream = some st → st.ready a n = some n →
      let h : HeldReq := ⟨⟨src, key, off, .flowRead n⟩, d, j, o.gen, a, n⟩
      s.reqReady h = true ∧ Answers s (s.answerReq h) src 0 ((List.range n).map fun i => byteAt s.mem (hbmPA (o.base + a) + i)) ∧
        (s.answerReq h).mem = s.mem ∧ (s.answerReq h).requests = s.requests.filter fun r => r ≠ h) ∧
    (∀ st p off', s.opens key off bs.length 1 .flowWrite (2 ^ 64 * (src + 1) + p) d j a o → o.stream = some st → bs.length % o.flowSize = 0 → a % o.flowSize = 0 →
      (st.append = true → a = o.flowStart) → o.reserve st (2 ^ 64 * (src + 1) + p) a bs.length = .at off' →
      ∃ t : State, exec (.fabricAccess ⟨src, key, off, .flowWrite p bs⟩) s = .next t ∧ Answers s t src 0 [] ∧
        (t.obj d j).bind Obj.stream = some ((st.take (2 ^ 64 * (src + 1) + p) off' bs.length).publish off' bs.length) ∧
        ∀ x, byteAt t.mem x = (storedLast ((span (hbmPA (o.base + off')) bs.length).zip bs) x).getD (byteAt s.mem x)) ∧
    (∀ st p, s.opens key off 1 1 .flowWrite (2 ^ 64 * (src + 1) + p) d j a o → o.stream = some st → st.canBind (2 ^ 64 * (src + 1) + p) = true →
      ∃ t : State, exec (.fabricAccess ⟨src, key, off, .endOfStream p⟩) s = .next t ∧ Answers s t src 0 [] ∧ t.mem = s.mem ∧
        (t.obj d j).bind Obj.stream = some ((st.bind (2 ^ 64 * (src + 1) + p)).token (2 ^ 64 * (src + 1) + p)).1) ∧
    (∀ sc x, s.opens key off 4 2 .fold 0 d j a o → (o.segAt a).map Seg.role = some (.fold 0 sc) → a % 4 = 0 →
      (∃ t : State, exec (.fabricAccess ⟨src, key, off, .fold 4 [(off, x)]⟩) s = .next t ∧ Answers s t src 0 (leBytes 8 0) ∧
        readNat t.mem (hbmPA (o.base + a)) 4 = (readNat s.mem (hbmPA (o.base + a)) 4 + x.toNat) % 2 ^ 32 ∧
        ∀ y, y ∉ span (hbmPA (o.base + a)) 4 → byteAt t.mem y = byteAt s.mem y) ∧
      (s.reduces off = true → ∀ (g m op : Nat), exec (.mergedUpdate ⟨src, key, off, .reduce 0 sc g m [x]⟩) s = exec (.fabricAccess ⟨src, key, off, .fold 4 [(off, x)]⟩) s ∧
        (op ≠ 0 → ∃ t : State, exec (.mergedUpdate ⟨src, key, off, .reduce op sc g m [x]⟩) s = .next t ∧ Answers s t src 4 [] ∧ t.mem = s.mem ∧ t.dies = s.dies))) ∧
    (∀ (sc : BitVec 8) (x : Word) (g m : Nat), s.opens key off 8 2 .fold 0 d j a o → (o.segAt a).map Seg.role = some (.fold 10 sc) → a % 8 = 0 → s.reduces off = true →
      ∃ t : State, exec (.mergedUpdate ⟨src, key, off, .reduce 10 sc g m [x]⟩) s = .next t ∧ Answers s t src 0 (leBytes 8 0) ∧
        readNat t.mem (hbmPA (o.base + a)) 8 = (readNat s.mem (hbmPA (o.base + a)) 8 + x.toNat) % 2 ^ 64 ∧
        ∀ y, y ∉ span (hbmPA (o.base + a)) 8 → byteAt t.mem y = byteAt s.mem y) ∧
    (s.exports.find? (fun x => x.2.start ≤ off && off < x.2.start + x.2.len) = none →
      ∀ op ∈ [FabricOp.read [(off, n)], .write [(off, bs)], .flowRead n, .flowWrite 0 bs, .endOfStream 0, .fold 4 [(off, 0)]],
        ∃ t : State, exec (.fabricAccess ⟨src, key, off, op⟩) s = .next t ∧ Answers s t src 4 [] ∧ t.mem = s.mem ∧ t.dies = s.dies) ∧
    (∀ (op : Nat) (sc : BitVec 8) (g m : Nat) (l : List Word), (∃ i < l.length, s.reduces (off + foldWord op * i) = false) →
      ∃ t : State, exec (.mergedUpdate ⟨src, key, off, .reduce op sc g m l⟩) s = .next t ∧ Answers s t src 4 [] ∧ t.mem = s.mem ∧ t.dies = s.dies)) ∧
  (∀ (w : Bool) (off : Nat) (s : State), ∃ t : State, exec (.bar4Access w off) s = .next t ∧ t.out = s.out ++ [.unsupported off] ∧ t.mem = s.mem ∧ t.tags = s.tags ∧
    t.ctxs = s.ctxs ∧ t.cores = s.cores ∧ t.dies = s.dies ∧ t.fns = s.fns) ∧
  (∀ (fn v : Nat) (s : State), (s.vector fn v).arm = true → (s.vector fn v).pending ≠ 0 →
    (max 1 (s.vector fn v).count.toNat ≤ (s.vector fn v).pending.toNat ∨ (s.vector fn v).window.toNat ≤ (s.tick - (s.vector fn v).oldest).toNat) →
    ∃ t : State, exec (.msiXMessage fn v) s = .next t ∧ t.out = s.out ++ [.msix fn v] ∧ (t.vector fn v).arm = false ∧ (t.vector fn v).pending = 0 ∧
      (∀ f w, (f, w) ≠ (fn, v) → t.vector f w = s.vector f w) ∧ t.mem = s.mem ∧ t.ctxs = s.ctxs)

namespace Sys2Proof.Machine

/-- A mailbox register write has changed one function's registers and nothing else of the device (R385). -/
def FnOnly (s t : State) (fn : Nat) (f : FnRegs) : Prop :=
  t.fn fn = f ∧ (∀ g, g ≠ fn → t.fn g = s.fn g) ∧ t.mem = s.mem ∧ t.tags = s.tags ∧ t.ctxs = s.ctxs ∧ t.cores = s.cores ∧ t.dies = s.dies ∧
    t.launches = s.launches ∧ t.out = s.out

/-- The physical number of a function's next completion record (R389). -/
def State.nextRecord (s : State) (fn : Nat) : Nat :=
  ioPA fn ((s.fn fn).cplBase.toNat + 32 * ((s.fn fn).cplTail.toNat % 2 ^ (s.fn fn).cplSize))

/-- The 32 bytes of a completion record stand at an address (R389). -/
def RecordAt (t : State) (a : Nat) (op status pasid user : Nat) (result detail : Word) (index : BitVec 16) : Prop :=
  readNat t.mem a 8 = op * 2 ^ 56 + status * 2 ^ 48 + pasid * 2 ^ 28 + user ∧ readNat t.mem (a + 8) 8 = result.toNat ∧
    readNat t.mem (a + 16) 8 = detail.toNat ∧ readNat t.mem (a + 24) 8 = index.toNat

/-- A command has completed with a status: it leaves its ring, its record is written when CR asks for it, and of the other memory only the listed
bytes may have changed (R386, R387, R389). -/
def Completed (s t : State) (fn : Nat) (c : Command) (status : Nat) (result detail : Word) (bytes : List Nat) : Prop :=
  (t.fn fn).head = (s.fn fn).head + 1 ∧ (t.fn fn).waiting = none ∧
    (c.w0.getLsbD 48 = true → RecordAt t (s.nextRecord fn) (bitsAt c.w0 56 8) status (bitsAt c.w0 28 20) (bitsAt c.w0 0 16) result detail (s.fn fn).head ∧
      (t.fn fn).cplTail = (s.fn fn).cplTail + 1) ∧
    ∀ x, x ∉ bytes → (c.w0.getLsbD 48 = true → x ∉ span (s.nextRecord fn) 32) → byteAt t.mem x = byteAt s.mem x

/-- The operands of a command lie in the ranges of its row, so far as they need no access (R386 to R388, R392, R396, R401, R403, R405, R406, R408). -/
def State.inRanges (s : State) (c : Command) : Bool :=
  match bitsAt c.w0 56 8 with
  | 1 | 2 => copyRanges c
  | 3 => bitsAt c.w1 0 6 = 0
  | 4 => allocRanges c
  | 7 => bitsAt c.w1 0 12 = 0 && ((List.range 15).any fun k => c.w2.toNat = 2 ^ (6 + k))
  | 8 => exportRanges c
  | 9 => redwinRanges c
  | 16 => assignRanges c && !(c.w3.getLsbD 32 && !(s.fn c.w1.toNat).pasids.contains (c.w3.setWidth 20) && 64 ≤ (s.fn c.w1.toNat).pasids.length)
  | 17 => c.w1.toNat < 128 && c.w2 &&& ~~~0x07070707 = 0
  | 18 => c.w1.toNat < 2 && bitsAt c.w2 0 12 = 0 && bitsAt c.w3 0 12 = 0 && c.w2.toNat ≤ c.w3.toNat
  | 19 => c.w1.toNat < 4096
  | 20 => c.w1.toNat < 2 ^ 32
  | _ => true

/-- A command is next in its function's ring, is well formed, and the function may issue it (R386, R387). -/
def State.takesUp (s : State) (fn : Nat) (c : Command) (op : Nat) : Prop :=
  s.applies fn c = true ∧ s.recovery = false ∧ c.formed = true ∧ s.permits fn c = true ∧ bitsAt c.w0 56 8 = op

end Sys2Proof.Machine

/-- R385, R387, R391: a write of a mailbox register takes effect, or, when it breaks one of the register's fields, only sets REGERR; read-only registers and
offsets that hold none take no write. The commands that a write of TAIL brings to a function come last in the order of arrival, and the engine takes the
first of the functions that it serves. (That a write to a read-only register, to a read-only bit or to an empty offset changes nothing and leaves REGERR is
the model's reading, log 51.) -/
def Obligations.HostRegisterWrites : Prop :=
  ∀ (fn vec off : Nat) (v : Word) (s : State), fn < 17 →
    let f := s.fn fn
    let err := { f with regErr := true }
    (v.toNat < 2 ^ 16 → (∃ t : State, exec (.tailWrite fn v) s = .next t ∧ FnOnly s t fn { f with tail := v.setWidth 16 }) ∧
      ∃ t : State, exec (.cplheadWrite fn v) s = .next t ∧ FnOnly s t fn { f with cplHead := v.setWidth 16 }) ∧
    (v.toNat < 2 ^ 16 → (∀ a ∈ s.arrivals, a.1 ≠ fn) → v.setWidth 16 ≠ f.head → ∃ t : State, exec (.tailWrite fn v) s = .next t ∧
      t.arrivals = s.arrivals ++ [(fn, (v.toNat + 2 ^ 16 - f.head.toNat) % 2 ^ 16)]) ∧
    (∀ (l m : List (Nat × Nat)) (n : Nat), s.arrivals = l ++ (fn, n) :: m → (∀ a ∈ l, s.served a.1 = false) → s.engineBusy = false →
      s.hasCommand fn = s.served fn ∧ (s.served fn = true → ∀ g, g ≠ fn → s.hasCommand g = false)) ∧
    (2 ^ 16 ≤ v.toNat → (∃ t : State, exec (.tailWrite fn v) s = .next t ∧ FnOnly s t fn err) ∧ ∃ t : State, exec (.cplheadWrite fn v) s = .next t ∧ FnOnly s t fn err) ∧
    (∃ t : State, exec (.stateWrite fn v) s = .next t ∧
      FnOnly s t fn (if v.toNat < 8 then { f with run := v.getLsbD 0, regErr := f.regErr && !v.getLsbD 2 } else err)) ∧
    (vec < 2048 → ∃ t : State, exec (.varmWrite fn vec v) s = .next t ∧
      (v.toNat / 2 ^ 48 ≠ 0 ∨ bitsAt v 1 31 ≠ 0 → FnOnly s t fn err) ∧
      (v.toNat / 2 ^ 48 = 0 → bitsAt v 1 31 = 0 → (t.vector fn vec) = (if v.getLsbD 0 then { s.vector fn vec with arm := true } else s.vector fn vec) ∧
        ∀ w, w ≠ vec → t.vector fn w = s.vector fn w)) ∧
    (∀ e ∈ [(0x00, { f with ringBase := v }), (0x20, { f with cplBase := v })], ∃ t : State, exec (.registerWrite fn e.1 v) s = .next t ∧
      FnOnly s t fn (if v.toNat % 4096 = 0 then e.2 else err)) ∧
    (∀ e ∈ [(0x08, { f with ringSize := v.toNat }), (0x28, { f with cplSize := v.toNat })], ∃ t : State, exec (.registerWrite fn e.1 v) s = .next t ∧
      FnOnly s t fn (if 6 ≤ v.toNat ∧ v.toNat ≤ 16 then e.2 else err)) ∧
    (vec < 2048 → ∃ t : State, exec (.registerWrite fn (0x1000 + 16 * vec) v) s = .next t ∧ (2 ^ 24 ≤ v.toNat → FnOnly s t fn err) ∧
      (v.toNat < 2 ^ 24 → ((t.vector fn vec).count.toNat, (t.vector fn vec).window.toNat, (t.vector fn vec).arm, (t.vector fn vec).pending) =
        (bitsAt v 16 8, bitsAt v 0 16, (s.vector fn vec).arm, (s.vector fn vec).pending) ∧ ∀ w, w ≠ vec → t.vector fn w = s.vector fn w)) ∧
    (off ∉ [0x00, 0x08, 0x10, 0x20, 0x28, 0x38, 0x48] → (∀ k < 2048, off ≠ 0x1000 + 16 * k ∧ off ≠ 0x1008 + 16 * k) → ∃ t : State, exec (.registerWrite fn off v) s = .next t ∧ FnOnly s t fn f)

/-- R386, R387, R390, R409, R410: every command whose word 0 is malformed, or whose operands break its row's ranges, completes with status 0x03, every one
that its function may not issue (a PF0 command of another function, or a PASID that is not the function's) with 0x04, and in
recovery mode any but ATTEST and FWLOAD with 0x09; the commands that set a table entry, a die's or a core's configuration, or an object act as their
rows say and complete with status 0. (The model's choices and readings: the order in which the statuses are tested, log 42; that FKEY takes any PASID, log 43;
the limit of 64 PASIDs a function, log 50; DETAIL zero where no row names it, log 54; HARVEST that waits for no move, log 55; the SHAKE-256 of FIPS 202, log 56;
EXPORT that refuses ones in w6 [31:4], log 89.) -/
def Obligations.MailboxCommandsComplete : Prop :=
  (∀ (fn : Nat) (c : Command) (s : State), s.applies fn c = true →
    (s.recovery = false → c.formed = false ∨ s.inRanges c = false →
      ∃ t : State, exec (commandInstr fn c) s = .next t ∧ Completed s t fn c 3 0 0 []) ∧
    (s.recovery = true → bitsAt c.w0 56 8 ∉ [12, 21] → ∃ t : State, exec (commandInstr fn c) s = .next t ∧ Completed s t fn c 9 0 0 []) ∧
    (s.recovery = false → c.formed = true → s.inRanges c = true →
      ((16 ≤ bitsAt c.w0 56 8 ∧ fn ≠ 0) ∨ (bitsAt c.w0 56 8 < 16 ∧ c.pasid ∉ (s.fn fn).pasids)) →
      ∃ t : State, exec (commandInstr fn c) s = .next t ∧ Completed s t fn c 4 0 0 [])) ∧
  (∀ (fn : Nat) (c : Command) (s : State), s.takesUp fn c 10 → ∃ t : State, exec (.nopCommand fn c) s = .next t ∧ Completed s t fn c 0 0 0 []) ∧
  (∀ (fn : Nat) (c : Command) (s : State), s.applies fn c = true → s.recovery = false → bitsAt c.w0 56 8 ∉ [1, 2, 3, 4, 5, 6, 7, 8, 9, 10, 11, 12, 16, 17, 18, 19, 20, 21] →
    ∃ t : State, exec (.malformedCommand fn c) s = .next t ∧ Completed s t fn c 3 0 0 []) ∧
  (∀ (fn d j : Nat) (c : Command) (s : State) (o : Obj), s.takesUp fn c 5 → d < 2 → j < 2 ^ 23 → s.obj d j = some o → o.live = true → c.w1 = handleOf d j o →
    s.foreignOwn 0 o = none → s.requests = [] → ∃ t : State, exec (.freeCommand fn c) s = .next t ∧ t.obj d j = some o.destroyed ∧ Completed s t fn c 0 0 0 []) ∧
  (∀ (fn : Nat) (c : Command) (s : State) (d : DLog) (e : TEntry), s.takesUp fn c 6 → c.w0.getLsbD 48 = false → s.oneDirty c.pasid d e →
    ∃ t : State, exec (.harvestCommand fn c) s = .next t ∧ Harvested s t c.pasid d e ∧ (t.fn fn).head = (s.fn fn).head + 1) ∧
  (∀ (fn : Nat) (c : Command) (s : State), s.takesUp fn c 7 → c.w1.toNat % 4096 = 0 → (∃ k < 15, c.w2.toNat = 2 ^ (6 + k)) →
    ∃ t : State, exec (.dlog fn c) s = .next t ∧ t.dlogs.find? (fun l => l.1 = bitsAt c.w0 28 20) = some (bitsAt c.w0 28 20, ⟨fn, c.w1.toNat, c.w2.toNat⟩) ∧
      Completed s t fn c 0 0 0 []) ∧
  (∀ (fn d j : Nat) (c : Command) (s : State) (o : Obj), s.takesUp fn c 8 → c.w1.toNat < 2 ^ 9 →
    (c.w1.getLsbD 8 = false → ∃ t : State, exec (.exportCommand fn c) s = .next t ∧ t.exports.find? (fun e => e.1 = bitsAt c.w1 0 8) = none ∧ Completed s t fn c 0 0 0 []) ∧
    (c.w1.getLsbD 8 = true → c.w2.toNat % 4096 = 0 → c.w3.toNat % 4096 = 0 → c.w2.toNat + c.w3.toNat ≤ 2 ^ 48 → bitsAt c.w6 4 28 = 0 → d < 2 → j < 2 ^ 23 →
      s.obj d j = some o → o.live = true → c.w4 = handleOf d j o → o.pasid = c.pasid → c.w5.toNat + c.w3.toNat ≤ o.len →
      (∀ x ∈ s.exports, x.1 ≠ bitsAt c.w1 0 8 → x.2.start + x.2.len ≤ c.w2.toNat ∨ c.w2.toNat + c.w3.toNat ≤ x.2.start) →
      ∃ t : State, exec (.exportCommand fn c) s = .next t ∧ Completed s t fn c 0 0 0 [] ∧ t.exports.find? (fun e => e.1 = bitsAt c.w1 0 8) =
        some (bitsAt c.w1 0 8, ⟨c.w2.toNat, c.w3.toNat, d, j, o.gen, c.w5.toNat, BitVec.ofNat 3 (bitsAt c.w6 0 3), c.w6.getLsbD 3, BitVec.ofNat 32 (bitsAt c.w6 32 32)⟩))) ∧
  (∀ (fn : Nat) (c : Command) (s : State), s.takesUp fn c 9 → redwinRanges c = true → ∃ t : State, exec (.redwin fn c) s = .next t ∧ Completed s t fn c 0 0 0 [] ∧
    t.redwins.find? (fun e => e.1 = c.w1.toNat) = some (c.w1.toNat, ⟨c.w2.toNat, c.w3.toNat, c.w4.toNat, bitsAt c.w5 0 5, BitVec.ofNat 8 (bitsAt c.w5 8 8),
      bitsAt c.w5 16 16, c.w6.toNat⟩)) ∧
  (∀ (fn : Nat) (c : Command) (s : State) (hl wl : List Nat), s.takesUp fn c 12 → s.mailBytes fn false true (span c.w1.toNat 32) = .ok hl →
    s.mailBytes fn true true (span c.w2.toNat 30040) = .ok wl → wl.Nodup → (∀ a ∈ wl, a < 2 ^ 64) →
    ∃ t : State, exec (.attest fn c) s = .next t ∧ Completed s t fn c 0 30040 0 wl ∧ (∀ i < 8, byteAt t.mem (wl.getD i 0) = if i = 0 then 1 else 0) ∧
      (∀ i < 32, byteAt t.mem (wl.getD (8 + i) 0) = byteAt s.mem (hl.getD i 0)) ∧
      ∀ i < 64, byteAt t.mem (wl.getD (40 + i) 0) = (shake256 s.running).getD i 0 ∧ byteAt t.mem (wl.getD (104 + i) 0) = (shake256 s.config).getD i 0 ∧
        byteAt t.mem (wl.getD (184 + i) 0) = Config.identityKey i) ∧
  (∀ (c : Command) (s : State), s.takesUp 0 c 16 → assignRanges c = true → (s.fn c.w1.toNat).pasids.length < 64 → s.places = [] →
    ∃ t : State, exec (.assign 0 c) s = .next t ∧ Completed s t 0 c 0 0 0 [] ∧ (∀ g < 16, t.clusterFnOf g = if c.w2.getLsbD g then c.w1.toNat else s.clusterFnOf g) ∧
      (c.w3.getLsbD 32 = true → BitVec.ofNat 20 (bitsAt c.w3 0 20) ∈ (t.fn c.w1.toNat).pasids) ∧
      (c.w3.getLsbD 33 = true → BitVec.ofNat 20 (bitsAt c.w3 0 20) ∉ (t.fn c.w1.toNat).pasids)) ∧
  (∀ (c : Command) (s : State), s.takesUp 0 c 17 → c.w1.toNat < 128 → c.w2 &&& ~~~0x07070707 = 0 → ∃ t : State, exec (.ctxcfg 0 c) s = .next t ∧
    Completed s t 0 c 0 0 0 [] ∧ ∀ k < 4, t.nextPart (4 * c.w1.toNat + k) = BitVec.ofNat 3 (bitsAt c.w2 (8 * k) 3)) ∧
  (∀ (c : Command) (s : State), s.takesUp 0 c 18 → c.w1.toNat < 2 → c.w2.toNat % 4096 = 0 → c.w3.toNat % 4096 = 0 → c.w2.toNat ≤ c.w3.toNat →
    ∃ t : State, exec (.watermark 0 c) s = .next t ∧ Completed s t 0 c 0 0 0 [] ∧ (t.die c.w1.toNat).low = c.w2.toNat ∧ (t.die c.w1.toNat).high = c.w3.toNat) ∧
  (∀ (c : Command) (s : State), s.takesUp 0 c 19 → c.w1.toNat < 4096 → ∃ t : State, exec (.fabid 0 c) s = .next t ∧ Completed s t 0 c 0 0 0 [] ∧ t.fabId = c.w1.toNat) ∧
  (∀ (c : Command) (s : State), s.takesUp 0 c 20 → c.w1.toNat < 2 ^ 32 → ∃ t : State, exec (.fkey 0 c) s = .next t ∧ Completed s t 0 c 0 0 0 [] ∧
    (t.fkey c.pasid).toNat = c.w1.toNat) ∧
  (∀ (c : Command) (s : State) (hl : List Nat), s.takesUp 0 c 21 → s.mailBytes 0 false true (span c.w1.toNat c.w2.toNat) = .ok hl →
    ∃ t : State, exec (.fwload 0 c) s = .next t ∧
      (if s.verifies (hl.map (byteAt s.mem)) then Completed s t 0 c 0 0 0 [] ∧ t.flash = hl.map (byteAt s.mem) else Completed s t 0 c 9 0 0 [] ∧ t.flash = s.flash)) ∧
  (∀ (fn : Nat) (c : Command) (s : State), s.takesUp fn c 4 → allocRanges c = true → c.w3 = 0 → s.roomNow c.w5.toNat ((c.w1.toNat + 4095) / 4096) = true →
    ∃ t j o, exec (.alloc fn c) s = .next t ∧ t.obj c.w5.toNat j = some o ∧ o.live = true ∧ o.len = c.w1.toNat ∧ o.pasid = c.pasid ∧ o.scount = 1 ∧
      o.segs.map Seg.role = [descRole c.w2] ∧ Completed s t fn c 0 (handleOf c.w5.toNat j o) (BitVec.ofNat 64 o.base) (span (hbmPA o.base) o.len)) ∧
  (∀ (fn : Nat) (c : Command) (s : State), s.takesUp fn c 11 → ∃ t : State, exec (.teardown fn c) s = .next t ∧ (t.fn fn).head = (s.fn fn).head + 1 ∧
    (∀ l ∈ t.launches, l.pasid = c.pasid → l.torn = true) ∧ (∀ m ∈ t.moves, m.pasid ≠ c.pasid) ∧
    (∀ d j o, t.obj d j = some o → o.pasid = c.pasid → o.live = false) ∧ ∀ d, ∀ k ∈ (t.die d).conds, k.2.pasid ≠ c.pasid)

namespace Sys2Proof.Machine

/-- The ends of a copy command whose translations are at hand and whose device end passes its checks: the host bytes and the device bytes, in address
order (R388). -/
def State.copyGoes (s : State) (fn : Nat) (c : Command) (host dev : List Nat) : Prop :=
  copyRanges c = true ∧ s.mailBytes fn (bitsAt c.w0 56 8 = 2) true (span (copyHost c).toNat c.w3.toNat) = .ok host ∧ s.copyDev fn c = dev.map some ∧
    (∀ a ∈ dev, s.copyCheck (bitsAt c.w0 56 8 = 1) a = .pass) ∧ host.Nodup ∧ dev.Nodup ∧ host.length = dev.length ∧ dev.length = c.w3.toNat ∧
    (∀ a ∈ host, a < 2 ^ 64) ∧ (∀ a ∈ dev, 2 ^ 64 ≤ a ∧ a < 2 ^ 72) ∧ (∀ x, (s.ctx x).stores = []) ∧ s.dlogs = [] ∧ Strike.copy fn ∉ s.strikes

/-- A copy command has moved its bytes (R388): every destination byte has its source byte's value, with REL its flag word holds w5 and is FULL, and it has
completed with status 0. -/
def Copied (s t : State) (fn : Nat) (c : Command) (src dst : List Nat) : Prop :=
  (∀ i < dst.length, (∀ f, c.w0.getLsbD 49 = true → flagPA c.w4 = some f → dst.getD i 0 ∉ span f 8) →
    byteAt t.mem (dst.getD i 0) = byteAt s.mem (src.getD i 0)) ∧
    (c.w0.getLsbD 49 = true → ∀ f, flagPA c.w4 = some f → tagAt s.tags f ≠ tagPoison → tagAt s.tags f ≠ tagBroken →
      readNat t.mem f 8 = c.w5.toNat ∧ tagAt t.tags f = tagFull) ∧
    ((∀ f, flagPA c.w4 = some f → tagAt s.tags f ≠ tagPoison) → Completed s t fn c 0 0 0 (dst ++ ((flagPA c.w4).elim [] fun f => span f 8)))

/-- The bytes of a launch descriptor that lie at hand (R392). -/
def State.descriptorAt (s : State) (fn : Nat) (c : Command) (b : List Byte) : Prop :=
  ∃ l, s.mailBytes fn false true (span c.w1.toNat 192) = .ok l ∧ b = l.map (byteAt s.mem)

end Sys2Proof.Machine

/-- R388, R391 to R395, R280: COPYIN and COPYOUT move their bytes and release their flag word; with ACQ they wait while it is EMPTY, and go on when it is FULL, as
FLAG_WORD_ACQUIRE finds; a POISON flag word is a data error (the model's reading, log 47), and a BROKEN one ends the copy with an error (its status is free, log 86). LAUNCH of one root
without an image pushes its completed record to its core and arms a launch join word; one whose header is malformed completes with status 0x03, and signals
where the header asks for it (log 95; its DETAIL of zero is log 54); a launch of which nothing remains completes with its record. -/
def Obligations.CopiesAndLaunches : Prop :=
  (∀ (fn : Nat) (c : Command) (s : State) (host dev : List Nat), s.copyGoes fn c host dev →
    (c.w0.getLsbD 50 = false ∨ (s.fn fn).acquired = true →
      (s.takesUp fn c 1 → ∃ t : State, exec (.copyin fn c) s = .next t ∧ Copied s t fn c host dev) ∧
      (s.takesUp fn c 2 → s.poisoned dev = false → ∃ t : State, exec (.copyout fn c) s = .next t ∧ Copied s t fn c dev host)) ∧
    (∀ f, c.w0.getLsbD 50 = true → (s.fn fn).acquired = false → flagPA c.w4 = some f → (s.fn fn).flag = none ∨ (s.fn fn).flag = some (f, .tagged) →
      (∀ e ∈ [(1, Instr.copyin fn c), (2, Instr.copyout fn c)], s.takesUp fn c e.1 →
        (tagAt s.tags f = tagEmpty → ∃ t : State, exec e.2 s = .next t ∧ (t.fn fn).waiting = some c ∧ (t.fn fn).flag = some (f, .tagged) ∧ KeepsMemory s t) ∧
        (tagAt s.tags f = tagPoison → ∃ t : State, exec e.2 s = .next t ∧ Completed s t fn c 7 0 c.w4 []) ∧
        (tagAt s.tags f = tagBroken → ∃ (t : State) (st : Nat), exec e.2 s = .next t ∧ 0 < st ∧ st ≤ 10 ∧ Completed s t fn c st 0 c.w4 [])) ∧
      (tagAt s.tags f = tagFull → (s.fn fn).waiting = some c → (s.fn fn).slotFree = true →
        (bitsAt c.w0 56 8 = 1 → ∃ t : State, exec (.flagWordAcquire fn) s = .next t ∧ Copied s t fn c host dev) ∧
        (bitsAt c.w0 56 8 = 2 → s.poisoned dev = false → ∃ t : State, exec (.flagWordAcquire fn) s = .next t ∧ Copied s t fn c dev host)))) ∧
  (∀ (fn : Nat) (c : Command) (s : State) (l : List Nat), s.takesUp fn c 3 → c.w1.toNat % 64 = 0 → s.mailBytes fn false true (span c.w1.toNat 64) = .ok l →
    headerOk (l.map (byteAt s.mem)) = false →
    let h := wordAt (l.map (byteAt s.mem)) 0
    ∃ t : State, exec (.launch fn c) s = .next t ∧ (t.fn fn).head = (s.fn fn).head + 1 ∧ (t.fn fn).waiting = none ∧ t.launches = s.launches ∧
      RecordAt t (s.nextRecord fn) 3 3 (bitsAt c.w0 28 20) (bitsAt c.w0 0 16) 0 0 (s.fn fn).head ∧
      (t.vector fn (bitsAt h 16 11)).pending = (s.vector fn (bitsAt h 16 11)).pending + (if h.getLsbD 33 then 1 else 0)) ∧
  (∀ (fn : Nat) (c : Command) (s : State) (b : List Byte) (wd : Nat), s.takesUp fn c 3 → c.w1.toNat % 64 = 0 → s.descriptorAt fn c b → (∀ l ∈ s.launches, l.id ≠ s.nextId) →
    bitsAt (wordAt b 0) 0 16 = 1 → headerOk (b.take 64) = true → (s.fn fn).placing = none →
    let r := rootAt b 0
    let q := r.trec.coreNum
    s.rootOk fn r = true → r.img = 0 → r.trec.pin = true → s.freeWord r.trec.die = some wd → (s.core q).deque.length < 64 → r.trec.arg1.toNat < 2 ^ 60 → r.trec.arg2.toNat < 2 ^ 60 →
    ∃ (t : State) (l : Launch) (k : QRec), exec (.launch fn c) s = .next t ∧ t.launches = s.launches ++ [l] ∧ (l.fn, l.pasid, l.words, l.kills, l.torn) = (fn, c.pasid, [wd], [], false) ∧
      l.tvec = wordAt b 8 ∧ l.trecBase = wordAt b 16 ∧ l.index = (s.fn fn).head ∧ (t.fn fn).head = (s.fn fn).head + 1 ∧ (t.fn fn).waiting = none ∧
      (t.core q).deque = (s.core q).deque ++ [k] ∧ k.launch = l.id ∧ k.parent = none ∧
      (k.trec.entry, k.trec.arg1, k.trec.arg2, k.trec.conds, k.trec.depth, k.trec.lk) = (r.trec.entry, r.trec.arg1, r.trec.arg2, [], 0, 0x8000) ∧
      locAddr k.trec.join = BitVec.ofNat 64 (10 * 2 ^ 60 + (wd - diePA r.trec.die 0)) ∧ k.trec.seq = (s.die r.trec.die).nextSeq ∧
      readNat t.mem wd 8 = 1 ∧ tagAt t.tags wd = tagFull ∧ ∀ x, x ∉ span wd 8 → byteAt t.mem x = byteAt s.mem x) ∧
  (∀ (s : State) (l : Launch), s.launchOf l.id = some l → l.words.all s.wordDone = true → (∀ p ∈ (s.fn l.fn).placing, p.1 ≠ l.id) → s.launchConds l.id = [] →
    s.launchBusy l.id = false → (∀ k ∈ l.kills, k.base = none ∨ k.record = []) → l.mute = false → (s.fn l.fn).slotFree = true → s.dlogs = [] →
    ∃ t : State, exec (.launchCompletion l.id) s = .next t ∧ t.launches = s.launches.filter (fun o => o.id ≠ l.id) ∧
      RecordAt t (s.nextRecord l.fn) l.op.toNat (if l.torn then 2 else if l.kills = [] then 0 else 1) l.pasid.toNat l.user.toNat
        (BitVec.ofNat 64 l.kills.length) l.detail l.index ∧
      (t.fn l.fn).cplTail = (s.fn l.fn).cplTail + 1 ∧ (∀ x, x ∉ span (s.nextRecord l.fn) 32 → byteAt t.mem x = byteAt s.mem x) ∧
      (t.vector l.fn l.vec).pending = (s.vector l.fn l.vec).pending + (if l.irq then 1 else 0))

/-- R375 to R377, R380, R381, R409, R411: RESET gives every part but memory, tags and flash its reset state, in recovery when the image or the configuration
block in flash does not verify; a function-level reset and a teardown leave no move, launch, condition or live object of their PASIDs; a margin re-plan needs an idle die and
its completion counts an epoch; a row is copied to a spare of its bank and remapped, an error in the spare ends its use, and without a spare the row's
units are quarantined; a quarantined unit is scrubbed. (That RESET keeps memory and tags, and the reset values the spec does not give, are the model's
choices, logs 3 and 2; so is what a function-level reset does to the mailbox registers and launches, log 14.) -/
def Obligations.ResetsTeardownsAndFirmware : Prop :=
  (∀ s : State, ∃ t : State, exec .reset s = .next t ∧ KeepsMemory s t ∧ KeepsTags s t ∧ t.flash = s.flash ∧ t.config = s.config ∧ t.recovery = !(s.verifies s.flash && Config.signatureValid s.config) ∧
    t.running = (if s.verifies s.flash && Config.signatureValid s.config then s.flash else []) ∧ t.arrivals = [] ∧ t.requests = [] ∧ t.resolves = [] ∧
    (∀ c, t.ctx c = Ctx.idle) ∧ (∀ q, t.core q = Core.start) ∧ (∀ d, t.die d = Die.start) ∧ (∀ n, t.fn n = FnRegs.start) ∧ t.moves = [] ∧ t.msends = [] ∧
    t.eoss = [] ∧ t.launches = [] ∧ t.saved = [] ∧ t.ended = [] ∧ t.dlogs = [] ∧ t.exports = [] ∧ t.redwins = [] ∧ t.tick = 0 ∧ (∀ g, t.clusterFnOf g = 0)) ∧
  (∀ (s : State) (ps : List (BitVec 20)) (us : List Nat), ∃ t : State, exec (.addressSpaceTeardown ps us) s = .next t ∧ (∀ p ∈ ps,
      (∀ l ∈ t.launches, l.pasid = p → l.torn = true) ∧ (∀ m ∈ t.moves, m.pasid ≠ p) ∧ (∀ d j o, t.obj d j = some o → o.pasid = p → o.live = false) ∧
      ∀ d, ∀ k ∈ (t.die d).conds, k.2.pasid ≠ p) ∧
    ∀ u ∈ us, u / halfUnits < 2 → u ∈ (t.die (u / halfUnits)).quarantine ∨ u ∈ (t.die (u / halfUnits)).pendQuarantine) ∧
  (∀ (s : State) (fn : Nat), fn < 17 → ∃ t : State, exec (.functionLevelReset fn) s = .next t ∧ t.fn fn = { FnRegs.start with pasids := (s.fn fn).pasids } ∧
    (∀ l ∈ t.launches, l.fn = fn → l.mute = true) ∧ ∀ p ∈ (s.fn fn).pasids, (∀ m ∈ t.moves, m.pasid ≠ p) ∧ ∀ d j o, t.obj d j = some o → o.pasid = p → o.live = false) ∧
  (∀ (s : State) (d : Nat), d < 2 → (s.dieIdle d = true → ∃ t : State, exec (.marginReplan d) s = .next t ∧ (t.die d).replan = true ∧ t.mem = s.mem ∧ t.ctxs = s.ctxs) ∧
    (s.dieIdle d = false → exec (.marginReplan d) s = .next s) ∧
    (∀ g, (s.die d).replan = true → ∃ t : State, exec (.replanCompletion d g) s = .next t ∧ (t.die d).replan = false ∧ (t.die d).epoch = (s.die d).epoch + 1 ∧
      (t.die d).guardBand = g ∧ t.mem = s.mem ∧ t.ctxs = s.ctxs) ∧
    (∀ row, (s.die d).rows.find? (fun r => r.1 = row) = none → ∃ t : State, exec (.rowSparing d row false) s = .next t ∧ t.mem = s.mem ∧
      (∀ k, s.spareFor d row = some k → (t.die d).rows = (s.die d).rows ++ [(row, k)] ∧ k < Config.spareRows d (Config.rowBank d row) ∧
        (Config.rowBank d row, k) ∉ (s.die d).badSpares ∧ ∀ r ∈ (s.die d).spared ++ (s.die d).rows, Config.rowBank d r.1 = Config.rowBank d row → r.2 ≠ k) ∧
      (s.spareFor d row = none → ∀ u ∈ Config.rowUnits d row, u / halfUnits < 2 → u ∈ (t.die (u / halfUnits)).quarantine ∨ u ∈ (t.die (u / halfUnits)).pendQuarantine)) ∧
    (∀ row k, (s.die d).rows.find? (fun r => r.1 = row) = some (row, k) → ∃ t : State, exec (.rowSparing d row true) s = .next t ∧ t.mem = s.mem ∧
      (Config.rowBank d row, k) ∈ (t.die d).badSpares ∧ (row, k) ∉ (t.die d).rows) ∧
    (∀ row k, (s.die d).rows.find? (fun r => r.1 = row) = some (row, k) → ∃ t : State, exec (.rowCopyCompletion d row) s = .next t ∧ (row, k) ∈ (t.die d).spared ∧
      (row, k) ∉ (t.die d).rows ∧ t.mem = s.mem) ∧
    (∀ u clean, u ∈ (s.die d).quarantine → ∃ t : State, exec (.quarantineScrub d u clean) s = .next t ∧
      (∀ x, byteAt t.mem x = if x ∈ span (hbmPA (4096 * u)) 4096 then 0 else byteAt s.mem x) ∧ (clean = true → u ∉ (t.die d).quarantine) ∧
      (clean = false → (t.die d).quarantine = (s.die d).quarantine)))

namespace Sys2Proof.Machine

/-- Sample words of the spec's own examples, or written from the layouts of R69 to R80, with what they are: of every class one or more. -/
def samplesS : List (Nat × Instr) :=
  [(0x80085296, Instr.add 8 10 10 11 0), (0x82A01900, Instr.clz 0 3 4 0), (0x8714FFFA, Instr.branch 0x14 1 0x7FFA), (0x85C6A800, Instr.ldf 6 21 0),
   (0x85B5DE00, Instr.std 21 27 0), (0x86450800, Instr.csrr 5 0x800)]
def samplesVT : List (Nat × Instr) :=
  [(0x88661022, Instr.vfma 3 0 4 1 2), (0x8B229CA2, Instr.vsort 1 1 7 5 1 0), (0x8B80E839, Instr.vget 1 26 1 25), (0x90004000, Instr.trin 0 4)]
def samplesM : List (Nat × Instr) :=
  [(0x980414F8, Instr.mma 2 0 5 0 3 1 1 1 0), (0x98800E21, Instr.mdrain 0 0 3 2 1 0 1), (0x98C07C00, Instr.mfmt 0 3 7 0)]
def samplesXK : List (Nat × Instr) :=
  [(0xA0644C73, Instr.tmc 2 0 1 6 7 3), (0xA0F29801, Instr.sld 9 0 2 12 1), (0xA843F000, Instr.loopp 7 3 2), (0xA8E04401, Instr.spawn 0 1 2 0 1),
   (0xA9A531C4, Instr.halloc 5 6 7 1), (0xAAA42800, Instr.chkeq 4 5), (0xAB400000, Instr.harvest), (0xAA643E00, Instr.msend 4 7 1)]
def decodeSamples : List (Nat × Instr) := samplesS ++ samplesVT ++ samplesM ++ samplesXK

/-- Words that R88 refuses: an opcode no row has, a size or mode that no row has, a bit that the row marks zero, a field value that its row marks undefined,
and a slot class that no slot has. -/
def undefinedSamples : List Nat :=
  [0x86800000, 0x800D0000, 0x80100000, 0x82A01902, 0x84810840, 0x8586EF00, 0x86650002, 0xB0000000]

/-- The bundle at an address of a context, written from R62 to R66: its words lie four bytes apart on readable pages of window 0x0, each decodes in the slot
that follows the ones before, and the last alone has its E bit set. -/
def BundleAt (s : State) (c : Nat) : Word → Option Nat → Nat → List Queued → Prop
  | _, _, _, [] => False
  | a, prev, pos, q :: rest => wfld a 57 7 = 0 ∧
      (∃ (target n : Nat) (rd wr : Bool), s.pageOf c (a.toNat / 4096) false = some (.at target rd wr) ∧
        decodeAt (BitVec.ofNat 32 (readNat s.mem (target + a.toNat % 4096) 4)) prev pos = .ok (n, q.syl) ∧ q.slot = Slot.ofNum n ∧ q.pos = pos ∧ q.blk = none ∧ q.word = none ∧ q.ops = [] ∧
        (rest ≠ [] → BundleAt s c (a + 4) (some n) (pos + 1) rest)) ∧
      (q.syl.last = true ↔ rest = [])

end Sys2Proof.Machine

/-- R62, R69 to R80, R88: the sample words decode to the instructions they stand for, and the undefined words to none. -/
def Obligations.DecodeSamples : Prop :=
  (∀ p ∈ decodeSamples, decodeTableWord 32 p.1 = some p.2) ∧ ∀ w ∈ undefinedSamples, decodeTableWord 32 w = none

/-- R62, R69 to R88: a word that encodes a well-formed syllable decodes to it, with every operand and both bits E and Y; and a word decodes to no syllable but
a well-formed one that it encodes. -/
def Obligations.DecodeOfEncode : Prop :=
  (∀ (y : Syl) (w : BitVec 32), y.instr.wf = true → encodeSyl y = some w → decodeSyl w = some y) ∧
  ∀ (y : Syl) (w : BitVec 32), decodeSyl w = some y → y.instr.wf = true ∧ encodeSyl y = some w

/-- R35, R36, R38, R62 to R66, R354: where the running context of the core in focus can go on, a step issues the oldest syllable in its slot queues that may
issue, none older being left in its slot: it is exec of that syllable at the state that names it as the syllable in issue, what was due having landed. With
the queues empty, nothing else due and no store that may be denied 16 entries back (log 100), a step fetches and decodes the bundle at the program counter, takes the next entry for it, moves the program counter past its words, places the
marker of a sync bundle and issues the first of its syllables; a branch, END and ERET come after the others. (Which context a step serves is the schedule's, log 6.) -/
def Obligations.StepRunsTheDecodedInstruction : Prop :=
  ∀ (s : State) (c : Nat), c = 4 * s.focus + (s.core s.focus).running → s.sched = [] → s.evTurn = false → s.ready c = true → (s.core s.focus).seek = false →
    (∀ e, e / 4 = s.focus → e ≠ c → s.lingers e = false) → s.residues = [] →
    (∀ (d : Disp) (q : Queued) (rest : List (Disp × Queued)), s.issuable c = (d, q) :: rest → ∃ u : State, step s = exec q.syl.instr u ∧
      (∀ e, e ≠ c → u.ctx e = (s.landed c).ctx e) ∧ u.ctx c = { (s.landed c).ctx c with queue := (u.ctx c).queue } ∧
      (u.cur.ctx, u.cur.slot, u.cur.entry, u.cur.pc, u.cur.pos) = (c, q.slot, d.entry, d.pc, q.pos) ∧ { s.landed c with cur := u.cur, ctxs := u.ctxs } = u ∧
      d ∈ (s.ctx c).queue ∧ q ∈ d.left ∧ ∀ o ∈ (s.ctx c).queue, o.entry < d.entry → ∀ r ∈ o.left, r.slot ≠ q.slot) ∧
    (∀ (pre post : List Queued) (q : Queued), let l := pre ++ q :: post
      (s.ctx c).queue = [] → (s.ctx c).late = [] → (s.ctx c).stores = [] → (∀ sl, s.slotStuck c sl = false) →
      ({ s.ctx c with entry := (s.ctx c).entry + 1 } : Ctx).landingDue = false → (∀ e ∈ s.skidEntries c, (s.ctx c).entry < e + 16) →
      (s.ctx c).task.bind (·.fault) = none → (s.ctx c).redirectDue = none → (s.ctx c).preemptReq = false → (∀ k, (s.ctx c).loop = some k → k.started = true) →
      l.length ≤ 8 → BundleAt s c (s.ctx c).pc none 0 l → (s.ctx c).mnopMissing l = none → (s.ctx c).overBudget = false → (s.ctx c).entry ∉ (s.ctx c).nulls →
      (∀ k ∈ l, Sparse.get 0 (s.ctx c).front k.slot.num ≤ (s.ctx c).entry) → (∀ k ∈ pre, isBranch k.syl.instr = true ∨ isLast k.syl.instr = true) →
      l = [q] ∨ (isBranch q.syl.instr = false ∧ isLast q.syl.instr = false ∧ isLend q.syl.instr = false) →
      ∃ u : State, step s = exec q.syl.instr u ∧ (∀ e, e ≠ c → u.ctx e = s.ctx e) ∧
        (u.cur.ctx, u.cur.slot, u.cur.entry, u.cur.pc, u.cur.pos) = (c, q.slot, (s.ctx c).entry, (s.ctx c).pc, q.pos) ∧
        { s with cur := u.cur, ctxs := u.ctxs } = u ∧ (u.ctx c).entry = (s.ctx c).entry + 1 ∧
        ((s.ctx c).loop = none → (u.ctx c).pc = (s.ctx c).pc + BitVec.ofNat 64 (4 * l.length)) ∧
        (u.ctx c).queue = [⟨(s.ctx c).entry, (s.ctx c).pc, l.length, l.any fun k => k.syl.sync, (s.ctx c).redirects, (s.ctx c).nulls, (s.ctx c).loop, l⟩] ∧
        (u.ctx c).s = (s.ctx c).s ∧ (u.ctx c).p = (s.ctx c).p ∧ (u.ctx c).v = (s.ctx c).v ∧ (u.ctx c).csr = (s.ctx c).csr ∧
        (u.ctx c).task = (s.ctx c).task ∧
        (u.ctx c).syncs = if l.any (fun k => k.syl.sync) then (s.ctx c).syncs ++ [(s.ctx c).entry] else (s.ctx c).syncs)

/-- R61: every step keeps the canonical forms of memory and of the tags, and gives a tag to no word outside the three scratchpad levels. -/
def Obligations.StepsKeepTheMachineCanonical : Prop := ∀ s t : State, s.Canonical → step s = .next t → t.Canonical

/-- R2, R32, R141, R308, R313, R344, R348, R383: the state after reset. Nothing is in progress, no context holds a task, no handle is live, every condition
is FREE, every predictor entry is 128, the watermarks are 4 GiB and 8 GiB, and every cluster is PF0's. (Registers and memory are zero and words EMPTY by the
model's choice, logs 2 and 3.) -/
def Obligations.ResetState : Prop :=
  State.reset.Canonical ∧ (∀ c, (State.reset.ctx c).task = none ∧ State.reset.ready c = false ∧ (State.reset.ctx c).queue = [] ∧
    (∀ r, (State.reset.ctx c).sreg r = Cell.of 0) ∧ ∀ r, (State.reset.ctx c).vreg r = Cell.of 0) ∧
  (∀ d, (State.reset.die d).conds = [] ∧ (State.reset.die d).low = 4 * 2 ^ 30 ∧ (State.reset.die d).high = 8 * 2 ^ 30 ∧
    (∀ i, Sparse.get 128 (State.reset.die d).pred i = 128) ∧ ∀ j, State.reset.obj d j = none) ∧
  (∀ g, State.reset.clusterFnOf g = 0) ∧ (∀ n, (State.reset.fn n).pasids = [] ∧ State.reset.hasCommand n = false) ∧ State.reset.moves = [] ∧
  State.reset.launches = [] ∧ State.reset.tick = 0 ∧ (∀ a, byteAt State.reset.mem a = 0 ∧ tagAt State.reset.tags a = tagEmpty) ∧
  step State.reset = .next { State.reset with evTurn := true }
end

