-- ==== Sys2Proof/Laws/Sparse.lean ====
section
/-! SUPPORT. Reading a sparse map after an update, and its canonical form. -/

namespace Sys2Proof.Machine

variable {α : Type}

@[simp] theorem Sparse.get_nil (d : α) (k : Nat) : Sparse.get d [] k = d := rfl

theorem Sparse.get_cons (d : α) (j : Nat) (v : α) (m : Sparse α) (k : Nat) :
    Sparse.get d ((j, v) :: m) k = if j = k then v else Sparse.get d m k := rfl

/-- Reading a key that was set gives the value. -/
@[simp] theorem Sparse.get_put_self (d : α) (m : Sparse α) (k : Nat) (x : α) : Sparse.get d (Sparse.put m k x) k = x := by
  induction m with
  | nil => simp [Sparse.put, Sparse.get]
  | cons e m ih =>
    obtain ⟨j, v⟩ := e
    unfold Sparse.put
    split
    · simp [Sparse.get]
    · split
      · simp [Sparse.get]
      · simp_all [Sparse.get]

/-- Setting a key leaves every other key alone. -/
theorem Sparse.get_put_ne (d : α) (m : Sparse α) {k k' : Nat} (x : α) (h : k' ≠ k) :
    Sparse.get d (Sparse.put m k x) k' = Sparse.get d m k' := by
  induction m with
  | nil => simp [Sparse.put, Sparse.get, Ne.symm h]
  | cons e m ih =>
    obtain ⟨j, v⟩ := e
    unfold Sparse.put
    split
    · subst_vars; simp [Sparse.get, Ne.symm h]
    · split
      · simp [Sparse.get, Ne.symm h]
      · simp [Sparse.get, ih]

theorem Sparse.get_put (d : α) (m : Sparse α) (k k' : Nat) (x : α) :
    Sparse.get d (Sparse.put m k x) k' = if k' = k then x else Sparse.get d m k' := by
  split
  · subst_vars; simp
  · exact Sparse.get_put_ne d m x ‹_›

/-- Reading an erased key gives the default. -/
@[simp] theorem Sparse.get_erase_self (d : α) (m : Sparse α) (k : Nat) : Sparse.get d (Sparse.erase m k) k = d := by
  induction m with
  | nil => rfl
  | cons e m ih =>
    obtain ⟨j, v⟩ := e
    simp only [Sparse.erase, List.filter_cons] at ih ⊢
    split
    · rename_i h; simp only [bne_iff_ne, ne_eq] at h; simp [Sparse.get, h, ih]
    · exact ih

theorem Sparse.get_erase_ne (d : α) (m : Sparse α) {k k' : Nat} (h : k' ≠ k) :
    Sparse.get d (Sparse.erase m k) k' = Sparse.get d m k' := by
  induction m with
  | nil => rfl
  | cons e m ih =>
    obtain ⟨j, v⟩ := e
    simp only [Sparse.erase, List.filter_cons] at ih ⊢
    split
    · simp [Sparse.get, ih]
    · rename_i hj
      simp only [bne_iff_ne, ne_eq, not_not] at hj
      subst hj
      simp [Sparse.get, Ne.symm h, ih]

/-- Reading after a canonical update. -/
theorem Sparse.get_set [DecidableEq α] (d : α) (m : Sparse α) (k k' : Nat) (x : α) :
    Sparse.get d (Sparse.set d m k x) k' = if k' = k then x else Sparse.get d m k' := by
  unfold Sparse.set
  split
  · subst_vars
    split
    · subst_vars; simp
    · exact Sparse.get_erase_ne _ m ‹_›
  · exact Sparse.get_put d m k k' x

/-- A canonical map keeps its form above a lower bound. -/
theorem Sparse.wfAbove_mono [DecidableEq α] (d : α) {b b' : Nat} {m : Sparse α} (h : Sparse.wfAbove d b m = true) (hb : b' ≤ b) :
    Sparse.wfAbove d b' m = true := by
  cases m with
  | nil => rfl
  | cons e m =>
    simp only [Sparse.wfAbove, Bool.and_eq_true, decide_eq_true_eq] at h ⊢
    exact ⟨⟨le_trans hb h.1.1, h.1.2⟩, h.2⟩

/-- Filtering keeps the canonical form. -/
theorem Sparse.wfAbove_filter [DecidableEq α] (d : α) (p : Nat × α → Bool) {b : Nat} {m : Sparse α}
    (h : Sparse.wfAbove d b m = true) : Sparse.wfAbove d b (m.filter p) = true := by
  induction m generalizing b with
  | nil => rfl
  | cons e m ih =>
    simp only [Sparse.wfAbove, Bool.and_eq_true, decide_eq_true_eq] at h
    simp only [List.filter_cons]
    split
    · simp only [Sparse.wfAbove, Bool.and_eq_true, decide_eq_true_eq]
      exact ⟨h.1, ih h.2⟩
    · exact Sparse.wfAbove_mono d (ih h.2) (by omega)

/-- Setting a key to a listed value keeps the canonical form. -/
theorem Sparse.wfAbove_put [DecidableEq α] (d : α) {b k : Nat} {m : Sparse α} {x : α} (h : Sparse.wfAbove d b m = true)
    (hk : b ≤ k) (hx : x ≠ d) : Sparse.wfAbove d b (Sparse.put m k x) = true := by
  induction m generalizing b with
  | nil => simp [Sparse.put, Sparse.wfAbove, hk, hx]
  | cons e m ih =>
    obtain ⟨j, v⟩ := e
    simp only [Sparse.wfAbove, Bool.and_eq_true, decide_eq_true_eq] at h
    unfold Sparse.put
    split
    · subst_vars; simp [Sparse.wfAbove, hk, hx, h.2]
    · split
      · simp only [Sparse.wfAbove, Bool.and_eq_true, decide_eq_true_eq]
        exact ⟨⟨hk, hx⟩, ⟨by omega, h.1.2⟩, h.2⟩
      · simp only [Sparse.wfAbove, Bool.and_eq_true, decide_eq_true_eq]
        exact ⟨h.1, ih h.2 (by omega)⟩

/-- The canonical update keeps the canonical form. -/
theorem Sparse.wf_set [DecidableEq α] (d : α) {m : Sparse α} (k : Nat) (x : α) (h : Sparse.wf d m = true) :
    Sparse.wf d (Sparse.set d m k x) = true := by
  unfold Sparse.set Sparse.wf at *
  split
  · exact Sparse.wfAbove_filter d _ h
  · exact Sparse.wfAbove_put d h (Nat.zero_le k) ‹_›

end Sys2Proof.Machine
end

