-- ==== Sys2Proof/Laws/State.lean ====
section
/-! SUPPORT. One lemma per part of the state and update: what each accessor reads after each update. -/

namespace Sys2Proof.Machine

/-! Contexts, cores, dies and functions after one of them is replaced. -/

@[simp] theorem ctx_setCtx_self (s : State) (c : Nat) (x : Ctx) : (s.setCtx c x).ctx c = x := Sparse.get_put_self _ _ _ _
theorem ctx_setCtx_ne (s : State) {c c' : Nat} (x : Ctx) (h : c' ≠ c) : (s.setCtx c x).ctx c' = s.ctx c' := Sparse.get_put_ne _ _ _ h
@[simp] theorem ctx_modCtx_self (s : State) (c : Nat) (f : Ctx → Ctx) : (s.modCtx c f).ctx c = f (s.ctx c) := Sparse.get_put_self _ _ _ _
theorem ctx_modCtx_ne (s : State) {c c' : Nat} (f : Ctx → Ctx) (h : c' ≠ c) : (s.modCtx c f).ctx c' = s.ctx c' := Sparse.get_put_ne _ _ _ h
@[simp] theorem cx_modCx (s : State) (f : Ctx → Ctx) : (s.modCx f).cx = f s.cx := Sparse.get_put_self _ _ _ _
theorem ctx_modCx_ne (s : State) (f : Ctx → Ctx) {c : Nat} (h : c ≠ s.cur.ctx) : (s.modCx f).ctx c = s.ctx c := ctx_setCtx_ne s _ h
@[simp] theorem core_modCore_self (s : State) (q : Nat) (f : Core → Core) : (s.modCore q f).core q = f (s.core q) :=
  Sparse.get_put_self _ _ _ _
theorem core_modCore_ne (s : State) {q q' : Nat} (f : Core → Core) (h : q' ≠ q) : (s.modCore q f).core q' = s.core q' :=
  Sparse.get_put_ne _ _ _ h
@[simp] theorem die_modDie_self (s : State) (d : Nat) (f : Die → Die) : (s.modDie d f).die d = f (s.die d) := Sparse.get_put_self _ _ _ _
theorem die_modDie_ne (s : State) {d d' : Nat} (f : Die → Die) (h : d' ≠ d) : (s.modDie d f).die d' = s.die d' :=
  Sparse.get_put_ne _ _ _ h
@[simp] theorem fn_modFn_self (s : State) (n : Nat) (f : FnRegs → FnRegs) : (s.modFn n f).fn n = f (s.fn n) := Sparse.get_put_self _ _ _ _
theorem fn_modFn_ne (s : State) {n n' : Nat} (f : FnRegs → FnRegs) (h : n' ≠ n) : (s.modFn n f).fn n' = s.fn n' :=
  Sparse.get_put_ne _ _ _ h

/-! The parts of the state that setCtx leaves as they are. -/

@[simp] theorem setCtx_cur (s : State) (c : Nat) (x : Ctx) : (s.setCtx c x).cur = s.cur := rfl
@[simp] theorem setCtx_cores (s : State) (c : Nat) (x : Ctx) : (s.setCtx c x).cores = s.cores := rfl
@[simp] theorem setCtx_dies (s : State) (c : Nat) (x : Ctx) : (s.setCtx c x).dies = s.dies := rfl
@[simp] theorem setCtx_mem (s : State) (c : Nat) (x : Ctx) : (s.setCtx c x).mem = s.mem := rfl
@[simp] theorem setCtx_tags (s : State) (c : Nat) (x : Ctx) : (s.setCtx c x).tags = s.tags := rfl
@[simp] theorem setCtx_moves (s : State) (c : Nat) (x : Ctx) : (s.setCtx c x).moves = s.moves := rfl
@[simp] theorem setCtx_msends (s : State) (c : Nat) (x : Ctx) : (s.setCtx c x).msends = s.msends := rfl
@[simp] theorem setCtx_eoss (s : State) (c : Nat) (x : Ctx) : (s.setCtx c x).eoss = s.eoss := rfl
@[simp] theorem setCtx_recasts (s : State) (c : Nat) (x : Ctx) : (s.setCtx c x).recasts = s.recasts := rfl
@[simp] theorem setCtx_resolves (s : State) (c : Nat) (x : Ctx) : (s.setCtx c x).resolves = s.resolves := rfl
@[simp] theorem setCtx_requests (s : State) (c : Nat) (x : Ctx) : (s.setCtx c x).requests = s.requests := rfl
@[simp] theorem setCtx_saved (s : State) (c : Nat) (x : Ctx) : (s.setCtx c x).saved = s.saved := rfl
@[simp] theorem setCtx_ended (s : State) (c : Nat) (x : Ctx) : (s.setCtx c x).ended = s.ended := rfl
@[simp] theorem setCtx_tasks (s : State) (c : Nat) (x : Ctx) : (s.setCtx c x).tasks = s.tasks := rfl
@[simp] theorem setCtx_launches (s : State) (c : Nat) (x : Ctx) : (s.setCtx c x).launches = s.launches := rfl
@[simp] theorem setCtx_fns (s : State) (c : Nat) (x : Ctx) : (s.setCtx c x).fns = s.fns := rfl
@[simp] theorem setCtx_arrivals (s : State) (c : Nat) (x : Ctx) : (s.setCtx c x).arrivals = s.arrivals := rfl
@[simp] theorem setCtx_clusterFn (s : State) (c : Nat) (x : Ctx) : (s.setCtx c x).clusterFn = s.clusterFn := rfl
@[simp] theorem setCtx_tick (s : State) (c : Nat) (x : Ctx) : (s.setCtx c x).tick = s.tick := rfl
@[simp] theorem setCtx_dlogs (s : State) (c : Nat) (x : Ctx) : (s.setCtx c x).dlogs = s.dlogs := rfl
@[simp] theorem setCtx_unlogged (s : State) (c : Nat) (x : Ctx) : (s.setCtx c x).unlogged = s.unlogged := rfl
@[simp] theorem setCtx_invals (s : State) (c : Nat) (x : Ctx) : (s.setCtx c x).invals = s.invals := rfl
@[simp] theorem setCtx_fabId (s : State) (c : Nat) (x : Ctx) : (s.setCtx c x).fabId = s.fabId := rfl
@[simp] theorem setCtx_fkeys (s : State) (c : Nat) (x : Ctx) : (s.setCtx c x).fkeys = s.fkeys := rfl
@[simp] theorem setCtx_exports (s : State) (c : Nat) (x : Ctx) : (s.setCtx c x).exports = s.exports := rfl
@[simp] theorem setCtx_redwins (s : State) (c : Nat) (x : Ctx) : (s.setCtx c x).redwins = s.redwins := rfl
@[simp] theorem setCtx_recovery (s : State) (c : Nat) (x : Ctx) : (s.setCtx c x).recovery = s.recovery := rfl
@[simp] theorem setCtx_flash (s : State) (c : Nat) (x : Ctx) : (s.setCtx c x).flash = s.flash := rfl
@[simp] theorem setCtx_config (s : State) (c : Nat) (x : Ctx) : (s.setCtx c x).config = s.config := rfl
@[simp] theorem setCtx_running (s : State) (c : Nat) (x : Ctx) : (s.setCtx c x).running = s.running := rfl
@[simp] theorem setCtx_out (s : State) (c : Nat) (x : Ctx) : (s.setCtx c x).out = s.out := rfl
@[simp] theorem setCtx_residues (s : State) (c : Nat) (x : Ctx) : (s.setCtx c x).residues = s.residues := rfl
@[simp] theorem setCtx_strikes (s : State) (c : Nat) (x : Ctx) : (s.setCtx c x).strikes = s.strikes := rfl
@[simp] theorem setCtx_lags (s : State) (c : Nat) (x : Ctx) : (s.setCtx c x).lags = s.lags := rfl
@[simp] theorem setCtx_nextId (s : State) (c : Nat) (x : Ctx) : (s.setCtx c x).nextId = s.nextId := rfl
@[simp] theorem setCtx_free (s : State) (c : Nat) (x : Ctx) : (s.setCtx c x).free = s.free := rfl
@[simp] theorem setCtx_sched (s : State) (c : Nat) (x : Ctx) : (s.setCtx c x).sched = s.sched := rfl
@[simp] theorem setCtx_focus (s : State) (c : Nat) (x : Ctx) : (s.setCtx c x).focus = s.focus := rfl
@[simp] theorem setCtx_evTurn (s : State) (c : Nat) (x : Ctx) : (s.setCtx c x).evTurn = s.evTurn := rfl
@[simp] theorem core_setCtx (s : State) (c : Nat) (x : Ctx) (k : Nat) : (s.setCtx c x).core k = s.core k := rfl
@[simp] theorem die_setCtx (s : State) (c : Nat) (x : Ctx) (k : Nat) : (s.setCtx c x).die k = s.die k := rfl
@[simp] theorem fn_setCtx (s : State) (c : Nat) (x : Ctx) (k : Nat) : (s.setCtx c x).fn k = s.fn k := rfl

/-! The parts of the state that modCtx leaves as they are. -/

@[simp] theorem modCtx_cur (s : State) (c : Nat) (f : Ctx → Ctx) : (s.modCtx c f).cur = s.cur := rfl
@[simp] theorem modCtx_cores (s : State) (c : Nat) (f : Ctx → Ctx) : (s.modCtx c f).cores = s.cores := rfl
@[simp] theorem modCtx_dies (s : State) (c : Nat) (f : Ctx → Ctx) : (s.modCtx c f).dies = s.dies := rfl
@[simp] theorem modCtx_mem (s : State) (c : Nat) (f : Ctx → Ctx) : (s.modCtx c f).mem = s.mem := rfl
@[simp] theorem modCtx_tags (s : State) (c : Nat) (f : Ctx → Ctx) : (s.modCtx c f).tags = s.tags := rfl
@[simp] theorem modCtx_moves (s : State) (c : Nat) (f : Ctx → Ctx) : (s.modCtx c f).moves = s.moves := rfl
@[simp] theorem modCtx_msends (s : State) (c : Nat) (f : Ctx → Ctx) : (s.modCtx c f).msends = s.msends := rfl
@[simp] theorem modCtx_eoss (s : State) (c : Nat) (f : Ctx → Ctx) : (s.modCtx c f).eoss = s.eoss := rfl
@[simp] theorem modCtx_recasts (s : State) (c : Nat) (f : Ctx → Ctx) : (s.modCtx c f).recasts = s.recasts := rfl
@[simp] theorem modCtx_resolves (s : State) (c : Nat) (f : Ctx → Ctx) : (s.modCtx c f).resolves = s.resolves := rfl
@[simp] theorem modCtx_requests (s : State) (c : Nat) (f : Ctx → Ctx) : (s.modCtx c f).requests = s.requests := rfl
@[simp] theorem modCtx_saved (s : State) (c : Nat) (f : Ctx → Ctx) : (s.modCtx c f).saved = s.saved := rfl
@[simp] theorem modCtx_ended (s : State) (c : Nat) (f : Ctx → Ctx) : (s.modCtx c f).ended = s.ended := rfl
@[simp] theorem modCtx_tasks (s : State) (c : Nat) (f : Ctx → Ctx) : (s.modCtx c f).tasks = s.tasks := rfl
@[simp] theorem modCtx_launches (s : State) (c : Nat) (f : Ctx → Ctx) : (s.modCtx c f).launches = s.launches := rfl
@[simp] theorem modCtx_fns (s : State) (c : Nat) (f : Ctx → Ctx) : (s.modCtx c f).fns = s.fns := rfl
@[simp] theorem modCtx_arrivals (s : State) (c : Nat) (f : Ctx → Ctx) : (s.modCtx c f).arrivals = s.arrivals := rfl
@[simp] theorem modCtx_clusterFn (s : State) (c : Nat) (f : Ctx → Ctx) : (s.modCtx c f).clusterFn = s.clusterFn := rfl
@[simp] theorem modCtx_tick (s : State) (c : Nat) (f : Ctx → Ctx) : (s.modCtx c f).tick = s.tick := rfl
@[simp] theorem modCtx_dlogs (s : State) (c : Nat) (f : Ctx → Ctx) : (s.modCtx c f).dlogs = s.dlogs := rfl
@[simp] theorem modCtx_unlogged (s : State) (c : Nat) (f : Ctx → Ctx) : (s.modCtx c f).unlogged = s.unlogged := rfl
@[simp] theorem modCtx_invals (s : State) (c : Nat) (f : Ctx → Ctx) : (s.modCtx c f).invals = s.invals := rfl
@[simp] theorem modCtx_fabId (s : State) (c : Nat) (f : Ctx → Ctx) : (s.modCtx c f).fabId = s.fabId := rfl
@[simp] theorem modCtx_fkeys (s : State) (c : Nat) (f : Ctx → Ctx) : (s.modCtx c f).fkeys = s.fkeys := rfl
@[simp] theorem modCtx_exports (s : State) (c : Nat) (f : Ctx → Ctx) : (s.modCtx c f).exports = s.exports := rfl
@[simp] theorem modCtx_redwins (s : State) (c : Nat) (f : Ctx → Ctx) : (s.modCtx c f).redwins = s.redwins := rfl
@[simp] theorem modCtx_recovery (s : State) (c : Nat) (f : Ctx → Ctx) : (s.modCtx c f).recovery = s.recovery := rfl
@[simp] theorem modCtx_flash (s : State) (c : Nat) (f : Ctx → Ctx) : (s.modCtx c f).flash = s.flash := rfl
@[simp] theorem modCtx_config (s : State) (c : Nat) (f : Ctx → Ctx) : (s.modCtx c f).config = s.config := rfl
@[simp] theorem modCtx_running (s : State) (c : Nat) (f : Ctx → Ctx) : (s.modCtx c f).running = s.running := rfl
@[simp] theorem modCtx_out (s : State) (c : Nat) (f : Ctx → Ctx) : (s.modCtx c f).out = s.out := rfl
@[simp] theorem modCtx_residues (s : State) (c : Nat) (f : Ctx → Ctx) : (s.modCtx c f).residues = s.residues := rfl
@[simp] theorem modCtx_strikes (s : State) (c : Nat) (f : Ctx → Ctx) : (s.modCtx c f).strikes = s.strikes := rfl
@[simp] theorem modCtx_lags (s : State) (c : Nat) (f : Ctx → Ctx) : (s.modCtx c f).lags = s.lags := rfl
@[simp] theorem modCtx_nextId (s : State) (c : Nat) (f : Ctx → Ctx) : (s.modCtx c f).nextId = s.nextId := rfl
@[simp] theorem modCtx_free (s : State) (c : Nat) (f : Ctx → Ctx) : (s.modCtx c f).free = s.free := rfl
@[simp] theorem modCtx_sched (s : State) (c : Nat) (f : Ctx → Ctx) : (s.modCtx c f).sched = s.sched := rfl
@[simp] theorem modCtx_focus (s : State) (c : Nat) (f : Ctx → Ctx) : (s.modCtx c f).focus = s.focus := rfl
@[simp] theorem modCtx_evTurn (s : State) (c : Nat) (f : Ctx → Ctx) : (s.modCtx c f).evTurn = s.evTurn := rfl
@[simp] theorem core_modCtx (s : State) (c : Nat) (f : Ctx → Ctx) (k : Nat) : (s.modCtx c f).core k = s.core k := rfl
@[simp] theorem die_modCtx (s : State) (c : Nat) (f : Ctx → Ctx) (k : Nat) : (s.modCtx c f).die k = s.die k := rfl
@[simp] theorem fn_modCtx (s : State) (c : Nat) (f : Ctx → Ctx) (k : Nat) : (s.modCtx c f).fn k = s.fn k := rfl

/-! The parts of the state that modCx leaves as they are. -/

@[simp] theorem modCx_cur (s : State) (f : Ctx → Ctx) : (s.modCx f).cur = s.cur := rfl
@[simp] theorem modCx_cores (s : State) (f : Ctx → Ctx) : (s.modCx f).cores = s.cores := rfl
@[simp] theorem modCx_dies (s : State) (f : Ctx → Ctx) : (s.modCx f).dies = s.dies := rfl
@[simp] theorem modCx_mem (s : State) (f : Ctx → Ctx) : (s.modCx f).mem = s.mem := rfl
@[simp] theorem modCx_tags (s : State) (f : Ctx → Ctx) : (s.modCx f).tags = s.tags := rfl
@[simp] theorem modCx_moves (s : State) (f : Ctx → Ctx) : (s.modCx f).moves = s.moves := rfl
@[simp] theorem modCx_msends (s : State) (f : Ctx → Ctx) : (s.modCx f).msends = s.msends := rfl
@[simp] theorem modCx_eoss (s : State) (f : Ctx → Ctx) : (s.modCx f).eoss = s.eoss := rfl
@[simp] theorem modCx_recasts (s : State) (f : Ctx → Ctx) : (s.modCx f).recasts = s.recasts := rfl
@[simp] theorem modCx_resolves (s : State) (f : Ctx → Ctx) : (s.modCx f).resolves = s.resolves := rfl
@[simp] theorem modCx_requests (s : State) (f : Ctx → Ctx) : (s.modCx f).requests = s.requests := rfl
@[simp] theorem modCx_saved (s : State) (f : Ctx → Ctx) : (s.modCx f).saved = s.saved := rfl
@[simp] theorem modCx_ended (s : State) (f : Ctx → Ctx) : (s.modCx f).ended = s.ended := rfl
@[simp] theorem modCx_tasks (s : State) (f : Ctx → Ctx) : (s.modCx f).tasks = s.tasks := rfl
@[simp] theorem modCx_launches (s : State) (f : Ctx → Ctx) : (s.modCx f).launches = s.launches := rfl
@[simp] theorem modCx_fns (s : State) (f : Ctx → Ctx) : (s.modCx f).fns = s.fns := rfl
@[simp] theorem modCx_arrivals (s : State) (f : Ctx → Ctx) : (s.modCx f).arrivals = s.arrivals := rfl
@[simp] theorem modCx_clusterFn (s : State) (f : Ctx → Ctx) : (s.modCx f).clusterFn = s.clusterFn := rfl
@[simp] theorem modCx_tick (s : State) (f : Ctx → Ctx) : (s.modCx f).tick = s.tick := rfl
@[simp] theorem modCx_dlogs (s : State) (f : Ctx → Ctx) : (s.modCx f).dlogs = s.dlogs := rfl
@[simp] theorem modCx_unlogged (s : State) (f : Ctx → Ctx) : (s.modCx f).unlogged = s.unlogged := rfl
@[simp] theorem modCx_invals (s : State) (f : Ctx → Ctx) : (s.modCx f).invals = s.invals := rfl
@[simp] theorem modCx_fabId (s : State) (f : Ctx → Ctx) : (s.modCx f).fabId = s.fabId := rfl
@[simp] theorem modCx_fkeys (s : State) (f : Ctx → Ctx) : (s.modCx f).fkeys = s.fkeys := rfl
@[simp] theorem modCx_exports (s : State) (f : Ctx → Ctx) : (s.modCx f).exports = s.exports := rfl
@[simp] theorem modCx_redwins (s : State) (f : Ctx → Ctx) : (s.modCx f).redwins = s.redwins := rfl
@[simp] theorem modCx_recovery (s : State) (f : Ctx → Ctx) : (s.modCx f).recovery = s.recovery := rfl
@[simp] theorem modCx_flash (s : State) (f : Ctx → Ctx) : (s.modCx f).flash = s.flash := rfl
@[simp] theorem modCx_config (s : State) (f : Ctx → Ctx) : (s.modCx f).config = s.config := rfl
@[simp] theorem modCx_running (s : State) (f : Ctx → Ctx) : (s.modCx f).running = s.running := rfl
@[simp] theorem modCx_out (s : State) (f : Ctx → Ctx) : (s.modCx f).out = s.out := rfl
@[simp] theorem modCx_residues (s : State) (f : Ctx → Ctx) : (s.modCx f).residues = s.residues := rfl
@[simp] theorem modCx_strikes (s : State) (f : Ctx → Ctx) : (s.modCx f).strikes = s.strikes := rfl
@[simp] theorem modCx_lags (s : State) (f : Ctx → Ctx) : (s.modCx f).lags = s.lags := rfl
@[simp] theorem modCx_nextId (s : State) (f : Ctx → Ctx) : (s.modCx f).nextId = s.nextId := rfl
@[simp] theorem modCx_free (s : State) (f : Ctx → Ctx) : (s.modCx f).free = s.free := rfl
@[simp] theorem modCx_sched (s : State) (f : Ctx → Ctx) : (s.modCx f).sched = s.sched := rfl
@[simp] theorem modCx_focus (s : State) (f : Ctx → Ctx) : (s.modCx f).focus = s.focus := rfl
@[simp] theorem modCx_evTurn (s : State) (f : Ctx → Ctx) : (s.modCx f).evTurn = s.evTurn := rfl
@[simp] theorem core_modCx (s : State) (f : Ctx → Ctx) (k : Nat) : (s.modCx f).core k = s.core k := rfl
@[simp] theorem die_modCx (s : State) (f : Ctx → Ctx) (k : Nat) : (s.modCx f).die k = s.die k := rfl
@[simp] theorem fn_modCx (s : State) (f : Ctx → Ctx) (k : Nat) : (s.modCx f).fn k = s.fn k := rfl

/-! The parts of the state that modCore leaves as they are. -/

@[simp] theorem modCore_cur (s : State) (q : Nat) (f : Core → Core) : (s.modCore q f).cur = s.cur := rfl
@[simp] theorem modCore_ctxs (s : State) (q : Nat) (f : Core → Core) : (s.modCore q f).ctxs = s.ctxs := rfl
@[simp] theorem modCore_dies (s : State) (q : Nat) (f : Core → Core) : (s.modCore q f).dies = s.dies := rfl
@[simp] theorem modCore_mem (s : State) (q : Nat) (f : Core → Core) : (s.modCore q f).mem = s.mem := rfl
@[simp] theorem modCore_tags (s : State) (q : Nat) (f : Core → Core) : (s.modCore q f).tags = s.tags := rfl
@[simp] theorem modCore_moves (s : State) (q : Nat) (f : Core → Core) : (s.modCore q f).moves = s.moves := rfl
@[simp] theorem modCore_msends (s : State) (q : Nat) (f : Core → Core) : (s.modCore q f).msends = s.msends := rfl
@[simp] theorem modCore_eoss (s : State) (q : Nat) (f : Core → Core) : (s.modCore q f).eoss = s.eoss := rfl
@[simp] theorem modCore_recasts (s : State) (q : Nat) (f : Core → Core) : (s.modCore q f).recasts = s.recasts := rfl
@[simp] theorem modCore_resolves (s : State) (q : Nat) (f : Core → Core) : (s.modCore q f).resolves = s.resolves := rfl
@[simp] theorem modCore_requests (s : State) (q : Nat) (f : Core → Core) : (s.modCore q f).requests = s.requests := rfl
@[simp] theorem modCore_saved (s : State) (q : Nat) (f : Core → Core) : (s.modCore q f).saved = s.saved := rfl
@[simp] theorem modCore_ended (s : State) (q : Nat) (f : Core → Core) : (s.modCore q f).ended = s.ended := rfl
@[simp] theorem modCore_tasks (s : State) (q : Nat) (f : Core → Core) : (s.modCore q f).tasks = s.tasks := rfl
@[simp] theorem modCore_launches (s : State) (q : Nat) (f : Core → Core) : (s.modCore q f).launches = s.launches := rfl
@[simp] theorem modCore_fns (s : State) (q : Nat) (f : Core → Core) : (s.modCore q f).fns = s.fns := rfl
@[simp] theorem modCore_arrivals (s : State) (q : Nat) (f : Core → Core) : (s.modCore q f).arrivals = s.arrivals := rfl
@[simp] theorem modCore_clusterFn (s : State) (q : Nat) (f : Core → Core) : (s.modCore q f).clusterFn = s.clusterFn := rfl
@[simp] theorem modCore_tick (s : State) (q : Nat) (f : Core → Core) : (s.modCore q f).tick = s.tick := rfl
@[simp] theorem modCore_dlogs (s : State) (q : Nat) (f : Core → Core) : (s.modCore q f).dlogs = s.dlogs := rfl
@[simp] theorem modCore_unlogged (s : State) (q : Nat) (f : Core → Core) : (s.modCore q f).unlogged = s.unlogged := rfl
@[simp] theorem modCore_invals (s : State) (q : Nat) (f : Core → Core) : (s.modCore q f).invals = s.invals := rfl
@[simp] theorem modCore_fabId (s : State) (q : Nat) (f : Core → Core) : (s.modCore q f).fabId = s.fabId := rfl
@[simp] theorem modCore_fkeys (s : State) (q : Nat) (f : Core → Core) : (s.modCore q f).fkeys = s.fkeys := rfl
@[simp] theorem modCore_exports (s : State) (q : Nat) (f : Core → Core) : (s.modCore q f).exports = s.exports := rfl
@[simp] theorem modCore_redwins (s : State) (q : Nat) (f : Core → Core) : (s.modCore q f).redwins = s.redwins := rfl
@[simp] theorem modCore_recovery (s : State) (q : Nat) (f : Core → Core) : (s.modCore q f).recovery = s.recovery := rfl
@[simp] theorem modCore_flash (s : State) (q : Nat) (f : Core → Core) : (s.modCore q f).flash = s.flash := rfl
@[simp] theorem modCore_config (s : State) (q : Nat) (f : Core → Core) : (s.modCore q f).config = s.config := rfl
@[simp] theorem modCore_running (s : State) (q : Nat) (f : Core → Core) : (s.modCore q f).running = s.running := rfl
@[simp] theorem modCore_out (s : State) (q : Nat) (f : Core → Core) : (s.modCore q f).out = s.out := rfl
@[simp] theorem modCore_residues (s : State) (q : Nat) (f : Core → Core) : (s.modCore q f).residues = s.residues := rfl
@[simp] theorem modCore_strikes (s : State) (q : Nat) (f : Core → Core) : (s.modCore q f).strikes = s.strikes := rfl
@[simp] theorem modCore_lags (s : State) (q : Nat) (f : Core → Core) : (s.modCore q f).lags = s.lags := rfl
@[simp] theorem modCore_nextId (s : State) (q : Nat) (f : Core → Core) : (s.modCore q f).nextId = s.nextId := rfl
@[simp] theorem modCore_free (s : State) (q : Nat) (f : Core → Core) : (s.modCore q f).free = s.free := rfl
@[simp] theorem modCore_sched (s : State) (q : Nat) (f : Core → Core) : (s.modCore q f).sched = s.sched := rfl
@[simp] theorem modCore_focus (s : State) (q : Nat) (f : Core → Core) : (s.modCore q f).focus = s.focus := rfl
@[simp] theorem modCore_evTurn (s : State) (q : Nat) (f : Core → Core) : (s.modCore q f).evTurn = s.evTurn := rfl
@[simp] theorem ctx_modCore (s : State) (q : Nat) (f : Core → Core) (k : Nat) : (s.modCore q f).ctx k = s.ctx k := rfl
@[simp] theorem die_modCore (s : State) (q : Nat) (f : Core → Core) (k : Nat) : (s.modCore q f).die k = s.die k := rfl
@[simp] theorem fn_modCore (s : State) (q : Nat) (f : Core → Core) (k : Nat) : (s.modCore q f).fn k = s.fn k := rfl

/-! The parts of the state that modDie leaves as they are. -/

@[simp] theorem modDie_cur (s : State) (d : Nat) (f : Die → Die) : (s.modDie d f).cur = s.cur := rfl
@[simp] theorem modDie_ctxs (s : State) (d : Nat) (f : Die → Die) : (s.modDie d f).ctxs = s.ctxs := rfl
@[simp] theorem modDie_cores (s : State) (d : Nat) (f : Die → Die) : (s.modDie d f).cores = s.cores := rfl
@[simp] theorem modDie_mem (s : State) (d : Nat) (f : Die → Die) : (s.modDie d f).mem = s.mem := rfl
@[simp] theorem modDie_tags (s : State) (d : Nat) (f : Die → Die) : (s.modDie d f).tags = s.tags := rfl
@[simp] theorem modDie_moves (s : State) (d : Nat) (f : Die → Die) : (s.modDie d f).moves = s.moves := rfl
@[simp] theorem modDie_msends (s : State) (d : Nat) (f : Die → Die) : (s.modDie d f).msends = s.msends := rfl
@[simp] theorem modDie_eoss (s : State) (d : Nat) (f : Die → Die) : (s.modDie d f).eoss = s.eoss := rfl
@[simp] theorem modDie_recasts (s : State) (d : Nat) (f : Die → Die) : (s.modDie d f).recasts = s.recasts := rfl
@[simp] theorem modDie_resolves (s : State) (d : Nat) (f : Die → Die) : (s.modDie d f).resolves = s.resolves := rfl
@[simp] theorem modDie_requests (s : State) (d : Nat) (f : Die → Die) : (s.modDie d f).requests = s.requests := rfl
@[simp] theorem modDie_saved (s : State) (d : Nat) (f : Die → Die) : (s.modDie d f).saved = s.saved := rfl
@[simp] theorem modDie_ended (s : State) (d : Nat) (f : Die → Die) : (s.modDie d f).ended = s.ended := rfl
@[simp] theorem modDie_tasks (s : State) (d : Nat) (f : Die → Die) : (s.modDie d f).tasks = s.tasks := rfl
@[simp] theorem modDie_launches (s : State) (d : Nat) (f : Die → Die) : (s.modDie d f).launches = s.launches := rfl
@[simp] theorem modDie_fns (s : State) (d : Nat) (f : Die → Die) : (s.modDie d f).fns = s.fns := rfl
@[simp] theorem modDie_arrivals (s : State) (d : Nat) (f : Die → Die) : (s.modDie d f).arrivals = s.arrivals := rfl
@[simp] theorem modDie_clusterFn (s : State) (d : Nat) (f : Die → Die) : (s.modDie d f).clusterFn = s.clusterFn := rfl
@[simp] theorem modDie_tick (s : State) (d : Nat) (f : Die → Die) : (s.modDie d f).tick = s.tick := rfl
@[simp] theorem modDie_dlogs (s : State) (d : Nat) (f : Die → Die) : (s.modDie d f).dlogs = s.dlogs := rfl
@[simp] theorem modDie_unlogged (s : State) (d : Nat) (f : Die → Die) : (s.modDie d f).unlogged = s.unlogged := rfl
@[simp] theorem modDie_invals (s : State) (d : Nat) (f : Die → Die) : (s.modDie d f).invals = s.invals := rfl
@[simp] theorem modDie_fabId (s : State) (d : Nat) (f : Die → Die) : (s.modDie d f).fabId = s.fabId := rfl
@[simp] theorem modDie_fkeys (s : State) (d : Nat) (f : Die → Die) : (s.modDie d f).fkeys = s.fkeys := rfl
@[simp] theorem modDie_exports (s : State) (d : Nat) (f : Die → Die) : (s.modDie d f).exports = s.exports := rfl
@[simp] theorem modDie_redwins (s : State) (d : Nat) (f : Die → Die) : (s.modDie d f).redwins = s.redwins := rfl
@[simp] theorem modDie_recovery (s : State) (d : Nat) (f : Die → Die) : (s.modDie d f).recovery = s.recovery := rfl
@[simp] theorem modDie_flash (s : State) (d : Nat) (f : Die → Die) : (s.modDie d f).flash = s.flash := rfl
@[simp] theorem modDie_config (s : State) (d : Nat) (f : Die → Die) : (s.modDie d f).config = s.config := rfl
@[simp] theorem modDie_running (s : State) (d : Nat) (f : Die → Die) : (s.modDie d f).running = s.running := rfl
@[simp] theorem modDie_out (s : State) (d : Nat) (f : Die → Die) : (s.modDie d f).out = s.out := rfl
@[simp] theorem modDie_residues (s : State) (d : Nat) (f : Die → Die) : (s.modDie d f).residues = s.residues := rfl
@[simp] theorem modDie_strikes (s : State) (d : Nat) (f : Die → Die) : (s.modDie d f).strikes = s.strikes := rfl
@[simp] theorem modDie_lags (s : State) (d : Nat) (f : Die → Die) : (s.modDie d f).lags = s.lags := rfl
@[simp] theorem modDie_nextId (s : State) (d : Nat) (f : Die → Die) : (s.modDie d f).nextId = s.nextId := rfl
@[simp] theorem modDie_free (s : State) (d : Nat) (f : Die → Die) : (s.modDie d f).free = s.free := rfl
@[simp] theorem modDie_sched (s : State) (d : Nat) (f : Die → Die) : (s.modDie d f).sched = s.sched := rfl
@[simp] theorem modDie_focus (s : State) (d : Nat) (f : Die → Die) : (s.modDie d f).focus = s.focus := rfl
@[simp] theorem modDie_evTurn (s : State) (d : Nat) (f : Die → Die) : (s.modDie d f).evTurn = s.evTurn := rfl
@[simp] theorem ctx_modDie (s : State) (d : Nat) (f : Die → Die) (k : Nat) : (s.modDie d f).ctx k = s.ctx k := rfl
@[simp] theorem core_modDie (s : State) (d : Nat) (f : Die → Die) (k : Nat) : (s.modDie d f).core k = s.core k := rfl
@[simp] theorem fn_modDie (s : State) (d : Nat) (f : Die → Die) (k : Nat) : (s.modDie d f).fn k = s.fn k := rfl

/-! The parts of the state that modFn leaves as they are. -/

@[simp] theorem modFn_cur (s : State) (n : Nat) (f : FnRegs → FnRegs) : (s.modFn n f).cur = s.cur := rfl
@[simp] theorem modFn_ctxs (s : State) (n : Nat) (f : FnRegs → FnRegs) : (s.modFn n f).ctxs = s.ctxs := rfl
@[simp] theorem modFn_cores (s : State) (n : Nat) (f : FnRegs → FnRegs) : (s.modFn n f).cores = s.cores := rfl
@[simp] theorem modFn_dies (s : State) (n : Nat) (f : FnRegs → FnRegs) : (s.modFn n f).dies = s.dies := rfl
@[simp] theorem modFn_mem (s : State) (n : Nat) (f : FnRegs → FnRegs) : (s.modFn n f).mem = s.mem := rfl
@[simp] theorem modFn_tags (s : State) (n : Nat) (f : FnRegs → FnRegs) : (s.modFn n f).tags = s.tags := rfl
@[simp] theorem modFn_moves (s : State) (n : Nat) (f : FnRegs → FnRegs) : (s.modFn n f).moves = s.moves := rfl
@[simp] theorem modFn_msends (s : State) (n : Nat) (f : FnRegs → FnRegs) : (s.modFn n f).msends = s.msends := rfl
@[simp] theorem modFn_eoss (s : State) (n : Nat) (f : FnRegs → FnRegs) : (s.modFn n f).eoss = s.eoss := rfl
@[simp] theorem modFn_recasts (s : State) (n : Nat) (f : FnRegs → FnRegs) : (s.modFn n f).recasts = s.recasts := rfl
@[simp] theorem modFn_resolves (s : State) (n : Nat) (f : FnRegs → FnRegs) : (s.modFn n f).resolves = s.resolves := rfl
@[simp] theorem modFn_requests (s : State) (n : Nat) (f : FnRegs → FnRegs) : (s.modFn n f).requests = s.requests := rfl
@[simp] theorem modFn_saved (s : State) (n : Nat) (f : FnRegs → FnRegs) : (s.modFn n f).saved = s.saved := rfl
@[simp] theorem modFn_ended (s : State) (n : Nat) (f : FnRegs → FnRegs) : (s.modFn n f).ended = s.ended := rfl
@[simp] theorem modFn_tasks (s : State) (n : Nat) (f : FnRegs → FnRegs) : (s.modFn n f).tasks = s.tasks := rfl
@[simp] theorem modFn_launches (s : State) (n : Nat) (f : FnRegs → FnRegs) : (s.modFn n f).launches = s.launches := rfl
@[simp] theorem modFn_arrivals (s : State) (n : Nat) (f : FnRegs → FnRegs) : (s.modFn n f).arrivals = s.arrivals := rfl
@[simp] theorem modFn_clusterFn (s : State) (n : Nat) (f : FnRegs → FnRegs) : (s.modFn n f).clusterFn = s.clusterFn := rfl
@[simp] theorem modFn_tick (s : State) (n : Nat) (f : FnRegs → FnRegs) : (s.modFn n f).tick = s.tick := rfl
@[simp] theorem modFn_dlogs (s : State) (n : Nat) (f : FnRegs → FnRegs) : (s.modFn n f).dlogs = s.dlogs := rfl
@[simp] theorem modFn_unlogged (s : State) (n : Nat) (f : FnRegs → FnRegs) : (s.modFn n f).unlogged = s.unlogged := rfl
@[simp] theorem modFn_invals (s : State) (n : Nat) (f : FnRegs → FnRegs) : (s.modFn n f).invals = s.invals := rfl
@[simp] theorem modFn_fabId (s : State) (n : Nat) (f : FnRegs → FnRegs) : (s.modFn n f).fabId = s.fabId := rfl
@[simp] theorem modFn_fkeys (s : State) (n : Nat) (f : FnRegs → FnRegs) : (s.modFn n f).fkeys = s.fkeys := rfl
@[simp] theorem modFn_exports (s : State) (n : Nat) (f : FnRegs → FnRegs) : (s.modFn n f).exports = s.exports := rfl
@[simp] theorem modFn_redwins (s : State) (n : Nat) (f : FnRegs → FnRegs) : (s.modFn n f).redwins = s.redwins := rfl
@[simp] theorem modFn_recovery (s : State) (n : Nat) (f : FnRegs → FnRegs) : (s.modFn n f).recovery = s.recovery := rfl
@[simp] theorem modFn_flash (s : State) (n : Nat) (f : FnRegs → FnRegs) : (s.modFn n f).flash = s.flash := rfl
@[simp] theorem modFn_config (s : State) (n : Nat) (f : FnRegs → FnRegs) : (s.modFn n f).config = s.config := rfl
@[simp] theorem modFn_running (s : State) (n : Nat) (f : FnRegs → FnRegs) : (s.modFn n f).running = s.running := rfl
@[simp] theorem modFn_out (s : State) (n : Nat) (f : FnRegs → FnRegs) : (s.modFn n f).out = s.out := rfl
@[simp] theorem modFn_residues (s : State) (n : Nat) (f : FnRegs → FnRegs) : (s.modFn n f).residues = s.residues := rfl
@[simp] theorem modFn_strikes (s : State) (n : Nat) (f : FnRegs → FnRegs) : (s.modFn n f).strikes = s.strikes := rfl
@[simp] theorem modFn_lags (s : State) (n : Nat) (f : FnRegs → FnRegs) : (s.modFn n f).lags = s.lags := rfl
@[simp] theorem modFn_nextId (s : State) (n : Nat) (f : FnRegs → FnRegs) : (s.modFn n f).nextId = s.nextId := rfl
@[simp] theorem modFn_free (s : State) (n : Nat) (f : FnRegs → FnRegs) : (s.modFn n f).free = s.free := rfl
@[simp] theorem modFn_sched (s : State) (n : Nat) (f : FnRegs → FnRegs) : (s.modFn n f).sched = s.sched := rfl
@[simp] theorem modFn_focus (s : State) (n : Nat) (f : FnRegs → FnRegs) : (s.modFn n f).focus = s.focus := rfl
@[simp] theorem modFn_evTurn (s : State) (n : Nat) (f : FnRegs → FnRegs) : (s.modFn n f).evTurn = s.evTurn := rfl
@[simp] theorem ctx_modFn (s : State) (n : Nat) (f : FnRegs → FnRegs) (k : Nat) : (s.modFn n f).ctx k = s.ctx k := rfl
@[simp] theorem core_modFn (s : State) (n : Nat) (f : FnRegs → FnRegs) (k : Nat) : (s.modFn n f).core k = s.core k := rfl
@[simp] theorem die_modFn (s : State) (n : Nat) (f : FnRegs → FnRegs) (k : Nat) : (s.modFn n f).die k = s.die k := rfl

/-! Registers with nothing outstanding. -/

@[simp] theorem Cell.of_pend {w : Nat} (v : BitVec w) : (Cell.of v).pend = [] := rfl
@[simp] theorem Cell.of_landed {w : Nat} (v : BitVec w) : (Cell.of v).landed = [] := rfl
@[simp] theorem Cell.read_of {w : Nat} (syncs : List Nat) (sl : Slot) (e : Nat) (v : BitVec w) (f : Nat) :
    (Cell.of v).read syncs sl e f = (v, f) := rfl
@[simp] theorem Cell.settled_of {w : Nat} (v : BitVec w) : (Cell.of v).settled = v := rfl
@[simp] theorem Cell.settle_of {w : Nat} (v : BitVec w) : (Cell.of v).settle = Cell.of v := rfl

/-- A read of a register with nothing outstanding gives its value and leaves the state (R47: nothing is pending). -/
@[simp] theorem readCell_of {w : Nat} (s : State) (v : BitVec w) (k : BitVec w → State → State) : s.readCell (Cell.of v) k = k v s := rfl

/-- s0 reads as zero (R53). -/
@[simp] theorem readS_zero (s : State) (k : Word → State → State) : s.readS 0 k = k 0 s := rfl

/-- p0 reads as all ones (R53). -/
@[simp] theorem readP_zero (s : State) (k : Word → State → State) : s.readP 0 k = k (BitVec.allOnes 64) s := rfl

/-- s0 ignores writes (R53). -/
@[simp] theorem writeS_zero (s : State) (lat : Nat) (v : Word) : s.writeS 0 lat v = s := rfl

/-- p0 ignores writes (R53). -/
@[simp] theorem writeP_zero (s : State) (lat : Nat) (v : Word) : s.writeP 0 lat v = s := rfl

end Sys2Proof.Machine
end

