-- ==== Sys2Proof/Laws/Frame.lean ====
section
/-! SUPPORT. What the shared operations of the meanings do: reads of settled registers, guards, result writes and the retirement of a
syllable, each said once. -/

namespace Sys2Proof.Machine

theorem readS_of {s : State} {r : BitVec 5} {v : Word} (h : s.hasS r v) (k : Word → State → State) : s.readS r k = k v s := by
  unfold State.hasS at h
  unfold State.readS
  split at h
  · subst h; simp_all
  · rw [if_neg ‹_›, h, readCell_of]

theorem readP_of {s : State} {r : BitVec 4} {v : Word} (h : s.hasP r v) (k : Word → State → State) : s.readP r k = k v s := by
  unfold State.hasP at h
  unfold State.readP
  split at h
  · subst h; simp_all
  · rw [if_neg ‹_›, h, readCell_of]

theorem unlent_of {s : State} {r : BitVec 5} (h : s.openV r) (k : State → State) : s.unlent r k = k s := by
  unfold State.unlent
  rw [show (s.cx.bank (r.toNat / 8)).at s.cur.entry = none from h]
  rfl

theorem readV_of {s : State} {r : BitVec 5} {v : VReg} (h : s.hasV r v) (k : VReg → State → State) : s.readV r k = k v s := by
  unfold State.readV
  rw [unlent_of h.1, h.2, readCell_of]

/-- A syllable whose guard holds acts (R67). -/
theorem guard5_true {s : State} {g : BitVec 5} (h : s.guardIs g true) (k : State → State) : s.guard5 g k = k s := by
  obtain ⟨v, hv, hb⟩ := h
  unfold State.guard5
  rw [readP_of hv]
  simp only [hb]
  rfl

/-- A syllable whose guard does not hold only retires (R118). -/
theorem guard5_false {s : State} {g : BitVec 5} (h : s.guardIs g false) (k : State → State) : s.guard5 g k = s.retire := by
  obtain ⟨v, hv, hb⟩ := h
  unfold State.guard5
  rw [readP_of hv]
  simp only [hb]
  rfl

theorem guard4_true {s : State} {g : BitVec 4} (h : s.guard4Is g true) (k : State → State) : s.guard4 g k = k s := by
  obtain ⟨v, hv, hb⟩ := h
  unfold State.guard4
  rw [readP_of hv]
  simp only [hb]
  rfl

theorem guard4_false {s : State} {g : BitVec 4} (h : s.guard4Is g false) (k : State → State) : s.guard4 g k = s.retire := by
  obtain ⟨v, hv, hb⟩ := h
  unfold State.guard4
  rw [readP_of hv]
  simp only [hb]
  rfl

/-- What the issue of a syllable leaves of a context: everything but the slot queues and the frontiers. -/
theorem issued_keeps (x : Ctx) (e : Nat) (sl : Slot) : ((x.issued e sl).prune).s = x.s ∧ ((x.issued e sl).prune).p = x.p ∧
    ((x.issued e sl).prune).v = x.v ∧ ((x.issued e sl).prune).csr = x.csr ∧ ((x.issued e sl).prune).task = x.task ∧
    ((x.issued e sl).prune).shapeA = x.shapeA ∧ ((x.issued e sl).prune).shapeS = x.shapeS ∧ ((x.issued e sl).prune).lend = x.lend ∧
    ((x.issued e sl).prune).fmtA = x.fmtA ∧ ((x.issued e sl).prune).fmtB = x.fmtB ∧ ((x.issued e sl).prune).scaleA = x.scaleA ∧
    ((x.issued e sl).prune).scaleB = x.scaleB ∧ ((x.issued e sl).prune).tu = x.tu ∧ ((x.issued e sl).prune).stores = x.stores ∧
    ((x.issued e sl).prune).inHandler = x.inHandler ∧ ((x.issued e sl).prune).chkv = x.chkv := by
  unfold Ctx.prune
  split <;> exact ⟨rfl, rfl, rfl, rfl, rfl, rfl, rfl, rfl, rfl, rfl, rfl, rfl, rfl, rfl, rfl, rfl⟩

/-- The issue of a syllable leaves dispatch where it stands (R35). -/
theorem issued_place (x : Ctx) (e : Nat) (sl : Slot) : ((x.issued e sl).prune).entry = x.entry ∧ ((x.issued e sl).prune).pc = x.pc ∧
    ((x.issued e sl).prune).redirects = x.redirects ∧ ((x.issued e sl).prune).nulls = x.nulls ∧ ((x.issued e sl).prune).loop = x.loop ∧
    ((x.issued e sl).prune).syncs = x.syncs ∧ ((x.issued e sl).prune).late = x.late := by
  unfold Ctx.prune
  split <;> exact ⟨rfl, rfl, rfl, rfl, rfl, rfl, rfl⟩

@[simp] theorem retire_ctx (s : State) : s.retire.ctx s.cur.ctx = (s.cx.issued s.cur.entry s.cur.slot).prune := ctx_setCtx_self _ _ _

theorem KeepsParts.refl (s : State) : KeepsParts s s :=
  ⟨fun _ => rfl, fun _ => rfl, fun _ => rfl, rfl, ⟨rfl, rfl⟩, ⟨rfl, rfl, rfl, rfl⟩, ⟨rfl, rfl, rfl, rfl⟩, ⟨rfl, rfl, rfl, rfl⟩,
    ⟨rfl, rfl, rfl, rfl, rfl⟩, ⟨rfl, rfl, rfl, rfl⟩, ⟨rfl, rfl, rfl, rfl, rfl⟩, rfl⟩

theorem KeepsParts.trans {s u t : State} (h : KeepsParts s u) (h' : KeepsParts u t) : KeepsParts s t := by
  obtain ⟨a2, a3, a4, a5, a6, a7, a8, a9, a10, a11, a12, a13⟩ := h
  obtain ⟨b2, b3, b4, b5, b6, b7, b8, b9, b10, b11, b12, b13⟩ := h'
  refine ⟨fun q => (b2 q).trans (a2 q), fun d => (b3 d).trans (a3 d), fun n => (b4 n).trans (a4 n), b5.trans a5,
    ⟨b6.1.trans a6.1, b6.2.trans a6.2⟩, ?_, ?_, ?_, ?_, ?_, ?_, b13.trans a13⟩
  all_goals simp_all

/-- A change of one context keeps the other parts, whether events go first or not. -/
theorem KeepsParts.setCtx (s : State) (c : Nat) (x : Ctx) (b : Bool) : KeepsParts s { s.setCtx c x with evTurn := b } :=
  ⟨fun _ => rfl, fun _ => rfl, fun _ => rfl, rfl, ⟨rfl, rfl⟩, ⟨rfl, rfl, rfl, rfl⟩, ⟨rfl, rfl, rfl, rfl⟩, ⟨rfl, rfl, rfl, rfl⟩,
    ⟨rfl, rfl, rfl, rfl, rfl⟩, ⟨rfl, rfl, rfl, rfl⟩, ⟨rfl, rfl, rfl, rfl, rfl⟩, rfl⟩

theorem KeepsDevice.refl (s : State) : KeepsDevice s s := ⟨fun _ _ => rfl, .refl s⟩

/-- What two changes keep while the syllable in issue stays, both together keep. -/
theorem KeepsDevice.trans {s u t : State} (h : KeepsDevice s u) (h' : KeepsDevice u t) (hc : u.cur = s.cur) : KeepsDevice s t :=
  ⟨fun c n => by rw [h'.others c (by rwa [hc]), h.others c n], h.parts.trans h'.parts⟩

/-- A change of the context in issue keeps the rest of the device. -/
theorem modCx_device (s : State) (f : Ctx → Ctx) : KeepsDevice s (s.modCx f) :=
  ⟨fun _ h => ctx_modCx_ne s f h, KeepsParts.setCtx s s.cur.ctx (f s.cx) s.evTurn⟩

/-- Retirement keeps the rest of the device. -/
theorem retire_device (s : State) : KeepsDevice s s.retire :=
  ⟨fun _ h => ctx_setCtx_ne s _ h, KeepsParts.setCtx s s.cur.ctx _ _⟩

/-- Retirement advances the syllable in issue. -/
theorem retire_advances (s : State) : Advances s s.retire := by
  unfold Advances
  rw [retire_ctx]
  exact ⟨rfl, rfl, issued_place _ _ _⟩

@[simp] theorem retire_cur (s : State) : s.retire.cur = s.cur := rfl
@[simp] theorem retire_mem (s : State) : s.retire.mem = s.mem := rfl
@[simp] theorem retire_tags (s : State) : s.retire.tags = s.tags := rfl

/-- Retirement alone changes no register, flag, special register, unit or byte of memory. -/
theorem retire_frame (s : State) : RegFrame s s.retire [] [] [] [] := by
  obtain ⟨h1, h2, h3, h4, h5, h6, h7, h8, h9, h10, h11, h12, h13, h14, h15, h16⟩ := issued_keeps s.cx s.cur.entry s.cur.slot
  refine ⟨retire_device s, fun _ => rfl, fun _ => rfl, ⟨?_, ?_, ?_, ?_, ?_, ?_⟩, ⟨?_, ?_, ?_, ?_, ?_⟩, ?_⟩ <;> rw [retire_ctx] <;>
    simp only [Ctx.sreg, Ctx.preg, Ctx.vreg, Ctx.csrCell, Ctx.shapeActive, Ctx.shapeShadow, h1, h2, h3, h4, h5, h6, h7, h8, h9, h10,
      h11, h12, h13, h14, h15, h16, implies_true, and_self]

/-- Frames compose while the syllable in issue stays. -/
theorem RegFrame.trans {s u t : State} {sd pd vd cd sd' pd' vd' cd' : List Nat} (h : RegFrame s u sd pd vd cd)
    (h' : RegFrame u t sd' pd' vd' cd') (hc : u.cur = s.cur) : RegFrame s t (sd ++ sd') (pd ++ pd') (vd ++ vd') (cd ++ cd') := by
  have e : u.cx = u.ctx s.cur.ctx := by rw [State.cx, hc]
  obtain ⟨d, m, g, r, n, st⟩ := h
  obtain ⟨d', m', g', r', n', st'⟩ := h'
  refine ⟨d.trans d' hc, fun a => ?_, fun a => ?_, ⟨?_, ?_, ?_, ?_, ?_, ?_⟩,
    ⟨?_, ?_, ?_, ?_, ?_⟩, ?_⟩
  · rw [m' a, m a]
  · rw [g' a, g a]
  all_goals (have r1 := r'.scalars; have r2 := r'.predicates; have r3 := r'.vectors; have r4 := r'.csrs; have r5 := r'.task;
             have r6 := r'.handler; have n1 := n'.shapes; have n2 := n'.lend; have n3 := n'.formats; have n4 := n'.scales;
             have n5 := n'.turn; have n6 := st'; rw [hc] at r1 r2 r3 r4 r5 r6 n1 n2 n3 n4 n5 n6; rw [e] at r1 r2 r3 r4 r5 r6 n1 n2 n3 n4 n5 n6)
  · intro x hx; simp only [List.mem_append, not_or] at hx; rw [r1 x hx.2, r.scalars x hx.1]
  · intro x hx; simp only [List.mem_append, not_or] at hx; rw [r2 x hx.2, r.predicates x hx.1]
  · intro x hx; simp only [List.mem_append, not_or] at hx; rw [r3 x hx.2, r.vectors x hx.1]
  · intro x hx; simp only [List.mem_append, not_or] at hx; rw [r4 x hx.2, r.csrs x hx.1]
  · rw [r5, r.task]
  · rw [r6.1, r6.2]; exact r.handler
  · intro x; rw [(n1 x).1, (n1 x).2]; exact n.shapes x
  · rw [n2, n.lend]
  · rw [n3.1, n3.2]; exact n.formats
  · rw [n4.1, n4.2]; exact n.scales
  · rw [n5, n.turn]
  · rw [n6, st]

@[simp] theorem writeS_cur (s : State) (d : BitVec 5) (lat : Nat) (v : Word) : (s.writeS d lat v).cur = s.cur := by
  unfold State.writeS; split <;> rfl
@[simp] theorem writeP_cur (s : State) (d : BitVec 4) (lat : Nat) (v : Word) : (s.writeP d lat v).cur = s.cur := by
  unfold State.writeP; split <;> rfl

/-- A frame that holds trivially. -/
theorem RegFrame.refl (s : State) (sd pd vd cd : List Nat) : RegFrame s s sd pd vd cd :=
  ⟨KeepsDevice.refl s,
    fun _ => rfl, fun _ => rfl, ⟨fun _ _ => rfl, fun _ _ => rfl, fun _ _ => rfl, fun _ _ => rfl, rfl, ⟨rfl, rfl⟩⟩,
    ⟨fun _ => ⟨rfl, rfl⟩, rfl, ⟨rfl, rfl⟩, ⟨rfl, rfl⟩, rfl⟩, rfl⟩

/-- A scalar result write touches its register alone. -/
theorem writeS_frame (s : State) (d : BitVec 5) (lat : Nat) (v : Word) : RegFrame s (s.writeS d lat v) [d.toNat] [] [] [] := by
  unfold State.writeS
  split
  · exact RegFrame.refl s _ _ _ _
  · refine ⟨modCx_device s _, fun _ => rfl, fun _ => rfl, ⟨fun r h => ?_, fun r _ => ?_, fun r _ => ?_, fun r _ => ?_, ?_, ?_⟩,
      ⟨fun r => ?_, ?_, ?_, ?_, ?_⟩, ?_⟩ <;>
      simp only [State.modCx, State.modCtx, ctx_setCtx_self, State.cx, Ctx.sreg, Ctx.preg, Ctx.vreg, Ctx.csrCell, Ctx.shapeActive,
        Ctx.shapeShadow, and_self]
    exact Sparse.get_put_ne _ _ _ (by simpa using h)

/-- A predicate result write touches its predicate alone. -/
theorem writeP_frame (s : State) (d : BitVec 4) (lat : Nat) (v : Word) : RegFrame s (s.writeP d lat v) [] [d.toNat] [] [] := by
  unfold State.writeP
  split
  · exact RegFrame.refl s _ _ _ _
  · refine ⟨modCx_device s _, fun _ => rfl, fun _ => rfl, ⟨fun r _ => ?_, fun r h => ?_, fun r _ => ?_, fun r _ => ?_, ?_, ?_⟩,
      ⟨fun r => ?_, ?_, ?_, ?_, ?_⟩, ?_⟩ <;>
      simp only [State.modCx, State.modCtx, ctx_setCtx_self, State.cx, Ctx.sreg, Ctx.preg, Ctx.vreg, Ctx.csrCell, Ctx.shapeActive,
        Ctx.shapeShadow, and_self]
    exact Sparse.get_put_ne _ _ _ (by simpa using h)

/-- A vector result write touches its register alone. -/
theorem writeV_frame (s : State) (d : BitVec 5) (lat : Nat) (exact' : Bool) (mask v : VReg) :
    RegFrame s (s.writeV d lat exact' mask v) [] [] [d.toNat] [] := by
  unfold State.writeV
  refine ⟨modCx_device s _, fun _ => rfl, fun _ => rfl, ⟨fun r _ => ?_, fun r _ => ?_, fun r h => ?_, fun r _ => ?_, ?_, ?_⟩,
    ⟨fun r => ?_, ?_, ?_, ?_, ?_⟩, ?_⟩ <;>
    simp only [State.modCx, State.modCtx, ctx_setCtx_self, State.cx, Ctx.sreg, Ctx.preg, Ctx.vreg, Ctx.csrCell, Ctx.shapeActive,
      Ctx.shapeShadow, and_self]
  exact Sparse.get_put_ne _ _ _ (by simpa using h)

/-- A CSR write touches that CSR alone. -/
theorem writeCsr_frame (s : State) (n lat : Nat) (mask v : Word) : RegFrame s (s.writeCsr n lat mask v) [] [] [] [n] := by
  unfold State.writeCsr
  refine ⟨modCx_device s _, fun _ => rfl, fun _ => rfl, ⟨fun r _ => ?_, fun r _ => ?_, fun r _ => ?_, fun r h => ?_, ?_, ?_⟩,
    ⟨fun r => ?_, ?_, ?_, ?_, ?_⟩, ?_⟩ <;>
    simp only [State.modCx, State.modCtx, ctx_setCtx_self, State.cx, Ctx.sreg, Ctx.preg, Ctx.vreg, Ctx.csrCell, Ctx.shapeActive,
      Ctx.shapeShadow, and_self]
  exact Sparse.get_put_ne _ _ _ (by simpa using h)

/-- A scalar result issues and its syllable retires: the register has the write, everything else is as before (R35, R39). -/
theorem writeS_retire (s : State) (d : BitVec 5) (lat : Nat) (v : Word) :
    WritesS s (s.writeS d lat v).retire d lat v ∧ RegFrame s (s.writeS d lat v).retire [d.toNat] [] [] [] := by
  have f := (writeS_frame s d lat v).trans (retire_frame _) (writeS_cur s d lat v)
  refine ⟨?_, by simpa using f⟩
  have hx := retire_ctx (s.writeS d lat v)
  have hs := (issued_keeps (s.writeS d lat v).cx s.cur.entry s.cur.slot).1
  rw [writeS_cur] at hx
  unfold WritesS
  split
  · subst_vars
    rw [writeS_zero] at hs ⊢
    simp only [retire_ctx, Ctx.sreg, hs]
  · rename_i hd
    simp only [hx, Ctx.sreg, hs]
    unfold State.writeS
    rw [if_neg hd]
    simp [Ctx.sreg, State.mkWrite]

/-- A predicate result issues and its syllable retires. -/
theorem writeP_retire (s : State) (d : BitVec 4) (lat : Nat) (v : Word) :
    WritesP s (s.writeP d lat v).retire d lat v ∧ RegFrame s (s.writeP d lat v).retire [] [d.toNat] [] [] := by
  have f := (writeP_frame s d lat v).trans (retire_frame _) (writeP_cur s d lat v)
  refine ⟨?_, by simpa using f⟩
  have hx := retire_ctx (s.writeP d lat v)
  have hp := (issued_keeps (s.writeP d lat v).cx s.cur.entry s.cur.slot).2.1
  rw [writeP_cur] at hx
  unfold WritesP
  split
  · subst_vars
    rw [writeP_zero] at hp ⊢
    simp only [retire_ctx, Ctx.preg, hp]
  · rename_i hd
    simp only [hx, Ctx.preg, hp]
    unfold State.writeP
    rw [if_neg hd]
    simp [Ctx.preg, State.mkWrite]

end Sys2Proof.Machine
end

