-- ==== Sys2Proof/Laws/Memory.lean ====
section
/-! SUPPORT. Memory: every write keeps the canonical form, a read after a write, and what a write leaves alone. -/

namespace Sys2Proof.Machine

/-- The entries of bytes from a on are canonical above a, and lie below the end. -/
theorem entriesFrom_wf (a : Nat) (bs : List Byte) : Sparse.wfAbove emptyByte a (entriesFrom a bs) = true := by
  induction bs generalizing a with
  | nil => rfl
  | cons x bs ih =>
    unfold entriesFrom
    split
    · exact Sparse.wfAbove_mono _ (ih (a + 1)) (by omega)
    · simp only [Sparse.wfAbove, Bool.and_eq_true, decide_eq_true_eq]
      exact ⟨⟨le_refl a, ‹_›⟩, ih (a + 1)⟩

/-- Canonical lists join when the second lies above every key of the first. -/
theorem wfAbove_append {b c : Nat} {m l : List Host.Cell} (hm : Sparse.wfAbove emptyByte b m = true)
    (hl : Sparse.wfAbove emptyByte c l = true) (hb : b ≤ c) (hc : ∀ e ∈ m, e.1 < c) :
    Sparse.wfAbove emptyByte b (m ++ l) = true := by
  induction m generalizing b with
  | nil => exact Sparse.wfAbove_mono _ hl hb
  | cons e m ih =>
    simp only [Sparse.wfAbove, Bool.and_eq_true, decide_eq_true_eq] at hm
    simp only [List.cons_append, Sparse.wfAbove, Bool.and_eq_true, decide_eq_true_eq]
    refine ⟨hm.1, ih hm.2 ?_ fun x hx => hc x (List.mem_cons_of_mem _ hx)⟩
    have := hc e (by simp)
    omega

/-- Entries that all lie at c or above are canonical above c. -/
theorem wfAbove_filter_ge {b c : Nat} {m : List Host.Cell} (h : Sparse.wfAbove emptyByte b m = true) :
    Sparse.wfAbove emptyByte c (m.filter fun e => c ≤ e.1) = true := by
  induction m generalizing b with
  | nil => rfl
  | cons e m ih =>
    simp only [Sparse.wfAbove, Bool.and_eq_true, decide_eq_true_eq] at h
    simp only [List.filter_cons]
    split
    · rename_i hc
      simp only [decide_eq_true_eq] at hc
      simp only [Sparse.wfAbove, Bool.and_eq_true, decide_eq_true_eq]
      exact ⟨⟨hc, h.1.2⟩, Sparse.wfAbove_filter _ _ h.2⟩
    · exact ih h.2

theorem entriesFrom_lt (a : Nat) (bs : List Byte) : ∀ e ∈ entriesFrom a bs, a ≤ e.1 ∧ e.1 < a + bs.length := by
  induction bs generalizing a with
  | nil => simp [entriesFrom]
  | cons x bs ih =>
    intro e he
    unfold entriesFrom at he
    simp only [List.length_cons]
    split at he
    · have := ih (a + 1) e he; omega
    · rcases List.mem_cons.mp he with rfl | he
      · simp
      · have := ih (a + 1) e he; omega

/-- Writing bytes keeps the canonical form of memory. -/
theorem memoryWf_writeBytes {m : List Host.Cell} (a : Nat) (bs : List Byte) (h : memoryWf m = true) :
    memoryWf (writeBytes m a bs) = true := by
  unfold memoryWf Sparse.wf at *
  unfold writeBytes
  have h1 : Sparse.wfAbove emptyByte 0 (m.filter fun e => e.1 < a) = true := Sparse.wfAbove_filter _ _ h
  have h2 := entriesFrom_wf a bs
  have h3 : Sparse.wfAbove emptyByte (a + bs.length) (m.filter fun e => a + bs.length ≤ e.1) = true := wfAbove_filter_ge h
  rw [List.append_assoc]
  refine wfAbove_append (c := a) h1 ?_ (Nat.zero_le a) ?_
  · exact wfAbove_append (c := a + bs.length) h2 h3 (by omega) fun e he => (entriesFrom_lt a bs e he).2
  · intro e he
    simpa using (List.mem_filter.mp he).2

/-- Writing a number keeps the canonical form of memory. -/
theorem memoryWf_writeNat {m : List Host.Cell} (a n x : Nat) (h : memoryWf m = true) : memoryWf (writeNat m a n x) = true :=
  memoryWf_writeBytes a _ h

/-- Writing scattered bytes keeps the canonical form of memory. -/
theorem memoryWf_writeAll {m : List Host.Cell} (l : List (Nat × Byte)) (h : memoryWf m = true) : memoryWf (writeAll m l) = true := by
  unfold writeAll
  induction l generalizing m with
  | nil => exact h
  | cons e l ih => exact ih (memoryWf_writeBytes _ _ h)

/-- Setting tags keeps their canonical form. -/
theorem tagsWf_setTag {t : Sparse (BitVec 2)} (pa : Nat) (g : BitVec 2) (h : Sparse.wf tagEmpty t = true) :
    Sparse.wf tagEmpty (setTag t pa g) = true := by
  unfold setTag
  split
  · exact Sparse.wf_set _ _ _ h
  · exact h

theorem tagsWf_setTags {t : Sparse (BitVec 2)} (a n : Nat) (g : BitVec 2) (h : Sparse.wf tagEmpty t = true) :
    Sparse.wf tagEmpty (setTags t a n g) = true := by
  unfold setTags
  generalize wordsOf a n = l
  induction l generalizing t with
  | nil => exact h
  | cons w l ih => exact ih (tagsWf_setTag w g h)

/-- A tag that was set reads back; only words of the scratchpad levels carry tags (R61). -/
theorem tagAt_setTag (t : Sparse (BitVec 2)) (pa a : Nat) (g : BitVec 2) :
    tagAt (setTag t pa g) a = if inStore pa ∧ a / 8 = pa / 8 then g else tagAt t a := by
  unfold setTag tagAt
  split
  · simp only [Sparse.get_set]; simp_all
  · simp_all

/-- Reading through a filter that keeps the key. -/
theorem get_filter_keep {p : Nat → Bool} (m : List Host.Cell) {k : Nat} (h : p k = true) :
    Sparse.get emptyByte (m.filter fun e => p e.1) k = Sparse.get emptyByte m k := by
  induction m with
  | nil => rfl
  | cons e m ih =>
    obtain ⟨j, v⟩ := e
    simp only [List.filter_cons]
    by_cases hj : j = k
    · subst hj; simp [h, Sparse.get]
    · split <;> simp [Sparse.get, hj, ih]

/-- Reading a list that does not list the key. -/
theorem get_append_of_not_mem (m l : List Host.Cell) {k : Nat} (h : ∀ e ∈ m, e.1 ≠ k) :
    Sparse.get emptyByte (m ++ l) k = Sparse.get emptyByte l k := by
  induction m with
  | nil => rfl
  | cons e m ih =>
    obtain ⟨j, v⟩ := e
    simp only [List.cons_append, Sparse.get]
    rw [if_neg (h (j, v) (by simp)), ih fun x hx => h x (List.mem_cons_of_mem _ hx)]

/-- Reading the first of two lists when the second does not list the key. -/
theorem get_append_left (m l : List Host.Cell) {k : Nat} (h : ∀ e ∈ l, e.1 ≠ k) :
    Sparse.get emptyByte (m ++ l) k = Sparse.get emptyByte m k := by
  induction m with
  | nil =>
    have := get_append_of_not_mem l [] h
    simpa using this
  | cons e m ih =>
    obtain ⟨j, v⟩ := e
    simp only [List.cons_append, Sparse.get, ih]

/-- The entries of bytes read as the bytes. -/
theorem get_entriesFrom (a : Nat) (bs : List Byte) (k : Nat) (hk : k < bs.length) :
    Sparse.get emptyByte (entriesFrom a bs) (a + k) = bs[k] := by
  induction bs generalizing a k with
  | nil => simp at hk
  | cons x bs ih =>
    have skip : ∀ c, Sparse.get emptyByte (entriesFrom (c + 1) bs) c = emptyByte := by
      intro c
      have := get_append_of_not_mem (entriesFrom (c + 1) bs) [] (k := c) fun e he => by
        have := entriesFrom_lt (c + 1) bs e he; omega
      simpa using this
    unfold entriesFrom
    cases k with
    | zero =>
      split
      · simp_all
      · simp [Sparse.get]
    | succ k =>
      have e : a + (k + 1) = (a + 1) + k := by omega
      have := ih (a + 1) k (by simpa using hk)
      split
      · simpa [e] using this
      · simp only [Sparse.get]
        rw [if_neg (by omega)]
        simpa [e] using this

/-- A byte after a write: the byte written there, or what was there before. -/
theorem byteAt_writeBytes (m : List Host.Cell) (a : Nat) (bs : List Byte) (k : Nat) :
    byteAt (writeBytes m a bs) k = if h : a ≤ k ∧ k < a + bs.length then bs[k - a]'(by omega) else byteAt m k := by
  unfold byteAt writeBytes
  by_cases h1 : k < a
  · have n2 : ¬(a ≤ k ∧ k < a + bs.length) := by omega
    rw [dif_neg n2, List.append_assoc, get_append_left]
    · exact get_filter_keep (p := fun j => decide (j < a)) m (by simpa using h1)
    · intro e he
      rcases List.mem_append.mp he with he | he
      · have := entriesFrom_lt a bs e he; omega
      · have := (List.mem_filter.mp he).2
        simp only [decide_eq_true_eq] at this
        omega
  · have low : ∀ e ∈ m.filter (fun e => e.1 < a), e.1 ≠ k := by
      intro e he
      have := (List.mem_filter.mp he).2
      simp only [decide_eq_true_eq] at this
      omega
    rw [List.append_assoc, get_append_of_not_mem _ _ low]
    by_cases h2 : k < a + bs.length
    · rw [dif_pos ⟨by omega, h2⟩, get_append_left]
      · have := get_entriesFrom a bs (k - a) (by omega)
        have e : a + (k - a) = k := by omega
        rwa [e] at this
      · intro e he
        have := (List.mem_filter.mp he).2
        simp only [decide_eq_true_eq] at this
        omega
    · rw [dif_neg (by omega), get_append_of_not_mem]
      · exact get_filter_keep (p := fun j => decide (a + bs.length ≤ j)) m (by simpa using Nat.le_of_not_lt h2)
      · intro e he
        have := entriesFrom_lt a bs e he
        omega

/-- A write leaves every byte outside it alone. -/
theorem byteAt_writeBytes_of_outside (m : List Host.Cell) (a : Nat) (bs : List Byte) {k : Nat} (h : k < a ∨ a + bs.length ≤ k) :
    byteAt (writeBytes m a bs) k = byteAt m k := by
  rw [byteAt_writeBytes, dif_neg (by omega)]

theorem leBytes_length (n x : Nat) : (leBytes n x).length = n := by
  induction n generalizing x with
  | zero => rfl
  | succ n ih => simp [leBytes, ih]

/-- A number read back from its bytes (R10). -/
theorem leNat_leBytes (n x : Nat) : leNat (leBytes n x) = x % 256 ^ n := by
  induction n generalizing x with
  | zero => simp [leBytes, leNat, Nat.mod_one]
  | succ n ih =>
    simp only [leBytes, leNat, ih, BitVec.toNat_ofNat, show (2 : Nat) ^ 8 = 256 from rfl]
    have e : 256 ^ (n + 1) = 256 * 256 ^ n := by ring
    rw [e, Nat.mod_mul (a := 256)]

/-- A number that was written reads back. -/
theorem readNat_writeNat (m : List Host.Cell) (a n x : Nat) : readNat (writeNat m a n x) a n = x % 256 ^ n := by
  unfold readNat writeNat readBytes span
  rw [← leNat_leBytes n x]
  congr 1
  apply List.ext_getElem
  · simp [leBytes_length]
  · intro i h1 h2
    simp only [List.length_map, List.length_range] at h1
    simp only [List.getElem_map, List.getElem_range]
    rw [byteAt_writeBytes, dif_pos ⟨by omega, by rw [leBytes_length]; omega⟩]
    congr 1
    omega

end Sys2Proof.Machine
end

