-- ==== Sys2Proof/Tests/Slice0.lean ====
section
/-! SUPPORT. The model's own tests: instruction words written out from the spec's encodings, ill-formed terms that are refused, one step on
small states, and for every statement with hypotheses a state and operands that meet them. -/

namespace Sys2Proof.Tests

set_option maxRecDepth 20000
set_option Elab.async false

open Sys2Proof.Machine

/-! Small states. -/

/-- A device with one task, in context 0, whose next word is an ADD. -/
def base : State := State.reset.withFetchWord 32 0x80000000

/-- The same with its context changed, and a syllable of S0 at entry 1 in issue. -/
def on (f : Ctx → Ctx) : State := { base.modCtx 0 f with cur := { base.cur with entry := 1 } }

/-- The same with s1 and s2 holding values. -/
def regs (v u : Word) : State := on fun x => { x with s := [(1, Cell.of v), (2, Cell.of u)] }

/-- The task of those states. -/
def task : Task := probeTask 1 0

/-- A 512-bit shape register of elements of 2^z bytes, from a base, with bounds n0 and n1 and strides d0 and d1. -/
def shape (b : Word) (z n0 n1 d0 d1 : Nat) : ShapeBits :=
  BitVec.ofNat 512 (b.toNat + 2 ^ 64 * z + 2 ^ 128 * n0 + 2 ^ 144 * n1 + 2 ^ 256 * d0 + 2 ^ 288 * d1)

/-! Witnesses of the hypotheses of the statements, in their order. -/

theorem witness_ScalarOperations : (regs 5 7).guardIs 0 true ∧ (regs 5 7).guardIs 0x11 true ∧ (regs 5 7).hasS 1 5 ∧ (regs 5 7).hasS 2 7 ∧ (regs 5 7).hasS 0 0 :=
  ⟨⟨BitVec.allOnes 64, by unfold State.hasP; decide +kernel, by decide +kernel⟩, ⟨0, by unfold State.hasP; decide +kernel, by decide +kernel⟩, by unfold State.hasS; decide +kernel,
    by unfold State.hasS; decide +kernel, by unfold State.hasS; decide +kernel⟩

/-- The hypotheses of ScalarBitOperationsWriteTheirResults and ImmediatesWriteTheirResults are among those above; a predicate p1 is added. -/
theorem witness_PredicateInstructions : (regs 5 7).hasS 1 5 ∧ (regs 5 7).hasS 2 7 ∧ (regs 5 7).hasP 0 (BitVec.allOnes 64) ∧ (regs 5 7).hasP 1 0 ∧ (11 : BitVec 4) ≠ 15 := by
  simp only [State.hasS, State.hasP]
  decide +kernel

theorem witness_FalseGuard : (∀ g, guard5Of (.add 1 2 2 2 0) = some g → base.guardIs g false) ∧ guard5Of (.add 1 2 2 2 0) ≠ none ∧
    (∀ g, guard4Of (.mnop 1 0) = some g → base.guard4Is g false) ∧ guard4Of (.mnop 1 0) ≠ none :=
  ⟨fun g h => by cases h; exact ⟨0, by unfold State.hasP; decide +kernel, by decide +kernel⟩, by decide +kernel,
    fun g h => by cases h; exact ⟨0, by unfold State.hasP; decide +kernel, by decide +kernel⟩, by decide +kernel⟩

/-- A result of 9 over 7 in s1, issued at entry 2 with bound 1, and a syllable of S0 in issue at an entry now, before which every slot has issued. -/
def result (sl : Slot) : Write 64 := ⟨sl, 2, 1, 3, false, BitVec.allOnes 64, 9⟩
def pending (now : Nat) (sl : Slot) (syncs : List Nat) (ctl : Word) : State :=
  { (on fun x => { x with entry := now, syncs := syncs, csr := [(0, Cell.of ctl)], s := [(1, (Cell.of 7).push (result sl))] }) with cur := { base.cur with entry := now } }

/-- The same, whose producer S1 has still to issue entry 3, the result's landing entry. -/
def behindS1 : State :=
  (pending 4 .s1 [3] 0).modCtx 0 fun x => { x with queue := [⟨3, 0, 1, true, [], [], none, [⟨.s1, 0, ⟨true, true, .add 1 2 2 2 0⟩, none, none, []⟩]⟩] }

/-- Same slot from entry e + L + 1; other slot past a sync bundle at entry b = c - L, whose slot has issued the landing entry or has not; the producer's
own entry; PEND set. -/
theorem witness_Reads : (pending 4 .s0 [] 0).cx.sreg 1 = (Cell.of 7).push (result .s0) ∧ (result .s0).exact = false ∧ (result .s0).land = (result .s0).entry + (result .s0).lat ∧
    (result .s0).slot = (pending 4 .s0 [] 0).cur.slot ∧ 2 + 1 + 1 ≤ (pending 4 .s0 [] 0).cur.entry ∧
    (result .s1).slot ≠ (pending 4 .s1 [3] 0).cur.slot ∧ (∃ b ∈ (pending 4 .s1 [3] 0).cx.syncs, 2 < b ∧ b + 1 ≤ (pending 4 .s1 [3] 0).cur.entry) ∧
    (pending 1 .s1 [] 0).cur.entry < 2 ∧ (pending 2 .s0 [] 0).cur.entry = 2 ∧ 2 ∈ (pending 2 .s1 [2] 0).cx.syncs ∧ (pending 4 .s0 [] 0).hasCsr csrCTL 0 ∧
    (∃ k ∈ ((pending 3 .s1 [] 16).cx.sreg 1).pend, k.entry < (pending 3 .s1 [] 16).cur.entry ∧ (pending 3 .s1 [] 16).cx.reach k.slot ≤ k.land ∧
      k.slot ≠ (pending 3 .s1 [] 16).cur.slot ∧ ∀ b ∈ (pending 3 .s1 [] 16).cx.syncs, k.entry < b → (pending 3 .s1 [] 16).cur.entry < b + k.lat) ∧
    (∃ k ∈ ((pending 3 .s0 [] 16).cx.sreg 1).pend, k.slot = (pending 3 .s0 [] 16).cur.slot ∧ k.entry < (pending 3 .s0 [] 16).cur.entry ∧
      (pending 3 .s0 [] 16).cx.reach k.slot ≤ k.land ∧ (pending 3 .s0 [] 16).cur.entry ≤ k.land) ∧
    (pending 3 .s1 [] 16).hasCsr csrCTL 16 ∧ (16 : Word).getLsbD 4 = true ∧
    (∀ s ∈ [pending 4 .s0 [] 0, pending 1 .s0 [] 0, pending 3 .s0 [] 16], ¬ s.readHeld (result .s0)) ∧
    (∀ s ∈ [pending 4 .s1 [3] 0, pending 1 .s1 [] 0, pending 3 .s1 [] 16], ¬ s.readHeld (result .s1)) ∧
    (∃ k ∈ (behindS1.cx.sreg 1).pend, behindS1.readHeld k) := by
  simp only [State.hasCsr, State.readHeld]
  decide +kernel

/-- The last 8 bytes of the own scratchpad. -/
def lastWord : Word := 0x80000000003FFFF8

theorem witness_Loads : (regs lastWord 0).hasS 1 lastWord ∧ homeAt (coreOf (regs lastWord 0).cur.ctx) (effAddr 8 lastWord 0) = some (spadPA 0 0x3FFFF8) ∧
    (effAddr 8 lastWord 0).toNat / 2 ^ 60 = 8 ∧ (effAddr 8 lastWord 0).toNat % 8 = 0 ∧ (regs lastWord 0).clear (spadPA 0 0x3FFFF8) 8 := by
  simp only [State.hasS, State.clear]
  decide +kernel

/-- A scratchpad write that has landed at entry 4, before entry 5. -/
def storeRec : StoreRec := ⟨.scalar, .s0, 0, 4, 4, 0, 0, 0, 0, 0, [(spadPA 0 8, 7)], [], false⟩
def stored : State := on fun x => { x with entry := 5, stores := [storeRec] }

theorem witness_Stores : (regs lastWord 9).hasS 1 lastWord ∧ (regs lastWord 9).hasS 2 9 ∧ homeAt (coreOf (regs lastWord 9).cur.ctx) (effAddr 8 lastWord 0) = some (spadPA 0 0x3FFFF8) ∧
    (effAddr 8 lastWord 0).toNat / 2 ^ 60 = 8 ∧ (effAddr 8 lastWord 0).toNat % 8 = 0 ∧ (regs lastWord 9).clear (spadPA 0 0x3FFFF8) 8 ∧
    (stored.ctx 0).stores = [storeRec] ∧ storeRec.landed = false ∧ storeRec.land < (stored.ctx 0).reach storeRec.slot ∧ (storeRec.bytes.map (·.1)).Nodup := by
  simp only [State.hasS, State.clear]
  and_intros <;> decide +kernel

theorem witness_Landing : ((pending 4 .s0 [] 0).ctx 0).sreg 1 = (Cell.of 7).push (result .s0) ∧ 3 < ((pending 4 .s0 [] 0).ctx 0).reach .s0 ∧
    ((pending 3 .s0 [] 0).ctx 0).reach .s0 ≤ 3 := by decide +kernel

/-- Results of every kind of register, issued by slot T at entry 2 with bound 1, at entry 4 of which T has issued 3, or not. -/
def results (now : Nat) : State :=
  { (on fun x => { x with
      entry := now, p := [(1, (Cell.of 0).push ⟨.t, 2, 1, 3, false, 1, 1⟩)], v := [(1, (Cell.of 0).push ⟨.t, 2, 1, 3, false, 1, 1⟩)]
      csr := [(0, (Cell.of 0).push ⟨.t, 2, 1, 3, false, 1, 1⟩)], shapeA := [(1, (Cell.of 0).push ⟨.t, 2, 1, 3, false, 1, 1⟩)]
      shapeS := [(1, (Cell.of 0).push ⟨.t, 2, 1, 3, false, 1, 1⟩)], tu := { x.tu with pend := [(3, .row 5)] } }) with
    cur := { base.cur with entry := now, slot := .t } }

theorem witness_Results : (∀ now ∈ [3, 4], let x := (results now).ctx 0
      x.preg 1 = (Cell.of 0).push ⟨.t, 2, 1, 3, false, 1, 1⟩ ∧ x.vreg 1 = (Cell.of 0).push ⟨.t, 2, 1, 3, false, 1, 1⟩ ∧
      x.csrCell 0 = (Cell.of 0).push ⟨.t, 2, 1, 3, false, 1, 1⟩ ∧ x.shapeActive 1 = (Cell.of 0).push ⟨.t, 2, 1, 3, false, 1, 1⟩ ∧
      x.shapeShadow 1 = (Cell.of 0).push ⟨.t, 2, 1, 3, false, 1, 1⟩ ∧ (results now).cur.slot = .t ∧ x.tu.pend ≠ []) ∧
    3 < ((results 4).ctx 0).reach .t ∧ ((results 3).ctx 0).reach .t ≤ 3 := by decide +kernel

/-- A syllable of S0 that waits for a reason, or does not, and the bundle of it alone, at entry 1. -/
def queuedSyl (i : Instr) (b : Option Block) (ops : List Word := []) : Queued := ⟨.s0, 0, ⟨true, false, i⟩, b, none, ops⟩
def bundleOf (q : Queued) : Disp := ⟨1, 0, 1, false, [], [], none, [q]⟩

/-- A context whose one bundle in the queues is that bundle. -/
def dispatched (i : Instr) (b : Option Block) (f : Ctx → Ctx) (ops : List Word := []) : State :=
  on fun x => { f x with queue := [bundleOf (queuedSyl i b ops)], entry := 2, pc := 4 }

/-- A context that waits for a reason on an instruction, and the state of that instruction in issue. -/
def waits (b : Block) (i : Instr) (f : Ctx → Ctx) (ops : List Word := []) : State := dispatched i (some b) f ops
def issuing (u : State) (b : Block) (i : Instr) (ops : List Word := []) : State :=
  u.atSyl 0 (bundleOf (queuedSyl i (some b) ops)) (queuedSyl i (some b) ops)

/-- The last word of the own cluster's store, in s1. -/
def clusterWord : Word := 0x90000000007FFFF8
def withClusterWord (x : Ctx) : Ctx := { x with s := [(1, Cell.of clusterWord)] }

/-- An access that slot S1 has still to perform at entry 1, when S0 comes to one at entry 2. -/
def behindOne : State :=
  (on fun x => { withClusterWord x with entry := 3, queue := [⟨1, 0, 1, false, [], [], none, [⟨.s1, 0, ⟨true, false, .ldd 3 1 0⟩, some .interlocked, none, [clusterWord]⟩]⟩] })

theorem witness_OtherWindows : (({ behindOne with cur := { base.cur with entry := 2 } } : State).behindAccess = true ∧
      ({ behindOne with cur := { base.cur with entry := 2 } } : State).hasS 1 clusterWord) ∧
    ∀ k ∈ [(Instr.ldd 3 1 0, [clusterWord]), (.std 3 1 0, [clusterWord, 0])], let i := k.1; let u := waits .interlocked i withClusterWord k.2
    (u.ctx 0).waiting .interlocked = [(bundleOf (queuedSyl i (some .interlocked) k.2), queuedSyl i (some .interlocked) k.2)] ∧ effAddr 8 clusterWord 0 = clusterWord ∧
    (issuing u .interlocked i k.2).hasS 1 clusterWord ∧ (issuing u .interlocked i k.2).hasS 3 0 ∧ (issuing u .interlocked i k.2).behindAccess = false ∧
    homeAt 0 (effAddr 8 clusterWord 0) = some (clusterPA 0 0x7FFFF8) ∧ (effAddr 8 clusterWord 0).toNat / 2 ^ 60 ≠ 8 ∧ (effAddr 8 clusterWord 0).toNat % 8 = 0 ∧
    (issuing u .interlocked i k.2).clear (clusterPA 0 0x7FFFF8) 8 := by
  refine ⟨by simp only [State.hasS]; decide +kernel, ?_⟩
  intro i h
  simp only [List.mem_cons, List.not_mem_nil, or_false] at h
  rcases h with rfl | rfl <;> dsimp only <;> simp only [State.hasS, State.clear] <;> and_intros <;> decide +kernel

/-- The first byte past the own scratchpad; a device address; a halfword at an odd address. -/
theorem witness_BadAddresses : (regs 0x8000000000400000 0).hasS 1 0x8000000000400000 ∧ (regs 0x8000000000400000 0).hasS 2 0 ∧
    homeAt 0 (effAddr 1 0x8000000000400000 0) = none ∧ homeAt 0 (effAddr 8 0xC000000000000000 0) = none ∧ homeAt 0 (effAddr 2 0x8000000000000001 0) = some (spadPA 0 1) ∧
    (effAddr 2 0x8000000000000001 0).toNat % 2 ≠ 0 ∧ spadPA 0 1 % 2 ^ 22 + 2 ≤ 2 ^ 22 := by
  simp only [State.hasS]
  decide +kernel

/-- Registers as in regs, with a tag at the last word of the own scratchpad. -/
def tagged (u : Word) (g : BitVec 2) : State := { regs lastWord u with tags := setTag [] (spadPA 0 0x3FFFF8) g }

theorem witness_TaggedLoads : ∀ g ∈ [tagFull, tagBroken], (tagged 0 g).hasS 1 lastWord ∧ homeAt (coreOf (tagged 0 g).cur.ctx) (effAddr 8 lastWord 0) = some (spadPA 0 0x3FFFF8) ∧
    (effAddr 8 lastWord 0).toNat % 8 = 0 ∧ (tagged 0 g).clear (spadPA 0 0x3FFFF8) 8 ∧ tagAt (tagged 0 g).tags (spadPA 0 0x3FFFF8) = g := by
  simp only [State.hasS, State.clear]
  decide +kernel

/-- Values 2, which TAGSET may write, and 3, which it may not; a context that waits on the word. -/
theorem witness_TaggedStores : ∀ g ∈ [tagEmpty, tagFull, tagBroken], ((tagged 2 g).hasS 1 lastWord ∧ (tagged 2 g).hasS 2 2 ∧
      homeAt (coreOf (tagged 2 g).cur.ctx) (effAddr 8 lastWord 0) = some (spadPA 0 0x3FFFF8) ∧ (effAddr 8 lastWord 0).toNat % 8 = 0 ∧
      (tagged 2 g).clear (spadPA 0 0x3FFFF8) 8 ∧ (tagged 2 g).released ∧ tagAt (tagged 2 g).tags (spadPA 0 0x3FFFF8) = g) ∧
    (tagged 3 g).hasS 2 3 ∧ (2 : Word).toNat % 4 ≠ 3 ∧ (3 : Word).toNat % 4 = 3 ∧ (tagged 2 g).waitless (spadPA 0 0x3FFFF8) ∧ (BitVec.ofNat 2 (2 : Word).toNat = tagBroken) ∧
    (let q : Queued := { queuedSyl (.ldf 3 1 0) (some .tagged) with word := some (spadPA 0 0x3FFFF8) }
     let s := (tagged 2 g).modCtx 1 fun x => { x with queue := [bundleOf q] }
     1 ≠ s.cur.ctx ∧ bundleOf q ∈ (s.ctx 1).queue ∧ q ∈ (bundleOf q).left ∧ q.blk ≠ none ∧ q.word = some (spadPA 0 0x3FFFF8)) := by
  intro g h
  have quiet (c : Nat) : ((tagged 2 g).ctx c).queue = [] := by cases c <;> rfl
  refine ⟨?_, ?_, by decide, by decide, ⟨fun c d hd => ?_, fun n e he => ?_⟩, by decide, ?_⟩
  · simp only [List.mem_cons, List.not_mem_nil, or_false] at h
    rcases h with rfl | rfl | rfl <;> simp only [State.hasS, State.clear, State.released] <;> decide +kernel
  · unfold State.hasS; rw [if_neg (by decide)]; rfl
  · rw [quiet c] at hd; exact (List.not_mem_nil hd).elim
  · have : ((tagged 2 g).fn n).flag = none := rfl
    rw [this] at he; cases he
  · simp only [List.mem_cons, List.not_mem_nil, or_false] at h
    rcases h with rfl | rfl | rfl <;> decide +kernel

theorem witness_TaggedWait : (∀ g ∈ [tagEmpty, tagFull], (tagged 0 g).hasS 1 lastWord ∧ (tagged 0 g).hasS 2 0 ∧
      homeAt (coreOf (tagged 0 g).cur.ctx) (effAddr 8 lastWord 0) = some (spadPA 0 0x3FFFF8) ∧ (effAddr 8 lastWord 0).toNat % 8 = 0 ∧
      (tagged 0 g).cx.speculative = false ∧ (tagged 0 g).accessHeld (span (spadPA 0 0x3FFFF8) 8) = false ∧ tagAt (tagged 0 g).tags (spadPA 0 0x3FFFF8) = g) ∧
    ∀ k ∈ [(Instr.ldf 3 1 0, [lastWord]), (.ldfe 3 1 0, [lastWord]), (.ste 3 1 0, [lastWord, 0])], let u := waits .tagged k.1 (fun x => { x with s := [(1, Cell.of lastWord)] }) k.2
      (u.ctx 0).waiting .tagged = [(bundleOf (queuedSyl k.1 (some .tagged) k.2), queuedSyl k.1 (some .tagged) k.2)] ∧
      (u.ctx 0).waiting .broken = [] ∧ (u.ctx 0).waiting .unheard = [] ∧ (u.ctx 0).speculative = false ∧ (issuing u .tagged k.1 k.2).hasS 1 lastWord ∧
      (issuing u .tagged k.1 k.2).hasS 3 0 ∧ effAddr 8 lastWord 0 = lastWord := by
  refine ⟨by simp only [State.hasS]; decide +kernel, ?_⟩
  intro i h
  simp only [List.mem_cons, List.not_mem_nil, or_false] at h
  rcases h with rfl | rfl | rfl <;> dsimp only <;> simp only [State.hasS] <;> and_intros <;> decide +kernel

/-- A context in supervisor mode with a value in one CSR. -/
def handler (n : Nat) (v : Word) : State :=
  on fun x => { x with inHandler := true, csr := Sparse.put [(csrSSTAT, Cell.of 1)] n (Cell.of v), s := [(1, Cell.of v)] }

theorem witness_Csrs : (base.hasCsr 0x2F 0 ∧ 0x2F < 0x800 ∧ (0x02F, 0, 0) ∈ csrTable) ∧
    ((handler 0x805 1).hasCsr 0x805 1 ∧ (handler 0x805 1).cx.supervisor = true ∧ (0x805, (0xFFFFFFFFFFFFFFFC : Word), (2 : Word)) ∈ csrTable) ∧
    base.cur.ctx < 512 ∧ base.cx.task = some task ∧ (handler 0x805 1).hasS 1 1 ∧ (1 : Word) &&& 0xFFFFFFFFFFFFFFFC = 0 ∧ (1 : Word).getLsbD 0 = true ∧
    ((regs 0xFF 0).hasS 1 0xFF ∧ (0x000, (0xFFFFFFFFFFFFFF00 : Word), (0 : Word)) ∈ csrTable ∧ (0xFF : Word) &&& 0xFFFFFFFFFFFFFF00 = 0 ∧
      ∀ k ∈ (regs 0xFF 0).cx.mdone, k.2 ≤ (regs 0xFF 0).cur.entry) ∧ ((0x100 : Word) &&& 0xFFFFFFFFFFFFFF00 ≠ 0 ∧ (regs 0x100 0).hasS 1 0x100) := by
  simp only [State.hasCsr, State.hasS]
  and_intros <;> decide +kernel

theorem witness_Privilege : base.cx.supervisor = false ∧ 0x800 ≤ (0x800 : BitVec 12).toNat ∧ (handler 0x805 1).cx.supervisor = true ∧
    (handler 0x805 1).guard4Is 0 true ∧ guard4Of (.trin 0 4) = some 0 ∧ isUnitInstr (.trin 0 4) = true :=
  ⟨by decide +kernel, by decide +kernel, by decide +kernel, ⟨BitVec.allOnes 64, by unfold State.hasP; decide +kernel, by decide +kernel⟩, by decide +kernel, by decide +kernel⟩

theorem witness_Shapes : (13 : BitVec 5).toNat < 14 ∧ (regs 0x4000000000000000 0x4000000000000001).hasS 1 0x4000000000000000 ∧
    (regs 0x4000000000000000 0x4000000000000001).hasS 2 0x4000000000000001 ∧ (regs 0x5000000000000000 0).hasS 1 0x5000000000000000 ∧
    (0x4000000000000000 : Word).toNat / 2 ^ 60 = 4 ∧ (0x4000000000000000 : Word).toNat % 2 ^ 16 = 0 ∧ (0x4000000000000001 : Word).toNat % 2 ^ 16 ≠ 0 ∧
    (0x5000000000000000 : Word).toNat / 2 ^ 60 ≠ 4 := by
  simp only [State.hasS]
  decide +kernel

theorem witness_Branches : (∃ l, base.linkAddr base.cur.ctx = .ok l) ∧ base.guardIs 0 true ∧ base.guardIs 1 false ∧ ((regs 4 3).hasS 1 4 ∧ (regs 4 3).hasS 2 3) ∧
    (4 : Word).toNat % 4 = 0 ∧ (3 : Word).toNat % 4 ≠ 0 :=
  ⟨⟨_, rfl⟩, ⟨BitVec.allOnes 64, by unfold State.hasP; decide +kernel, by decide +kernel⟩, ⟨0, by unfold State.hasP; decide +kernel, by decide +kernel⟩, by simp only [State.hasS]; decide +kernel,
    by decide +kernel, by decide +kernel⟩

theorem witness_Redirects : base.cx.loop = none ∧ base.cx.entry ∉ base.cx.nulls ∧ (on fun x => { x with nulls := [1] }).cx.entry ∈ (on fun x => { x with nulls := [1] }).cx.nulls ∧
    (let s := on fun x => { x with redirects := [(1, 64), (2, 128)] }
     s.mayDispatch 0 = true ∧ (s.ctx 0).stagesFree = true ∧ (s.ctx 0).redirects = [((s.ctx 0).entry, 64), (2, 128)] ∧ 2 ≠ (s.ctx 0).entry) := by
  decide +kernel

theorem witness_Loops : base.cx.loop = none ∧ base.hasS 1 0 ∧ base.cx.shapeActive 15 = Cell.of 0 := by
  simp only [State.hasS]
  and_intros <;> rfl

/-- A loop of count iterations, with two stages, before its pass. -/
def looping (count pass : Nat) : LoopSt := ⟨.loopp, 4, 1, count, 2, pass, 0, false, 0, count, false, [count, 1, 1, 1, 1, 1]⟩
def inLoop (count pass : Nat) : State := on fun x => { x with loop := some (looping count pass) }

theorem witness_LoopPasses : (∀ k ∈ [(3, 3), (3, 4), (0, 0)], (inLoop k.1 k.2).mayDispatch 0 = true ∧ ((inLoop k.1 k.2).ctx 0).stagesFree = true ∧
      ((inLoop k.1 k.2).ctx 0).loop = some (looping k.1 k.2) ∧
      ((inLoop k.1 k.2).ctx 0).redirects = [] ∧ (looping k.1 k.2).started = false ∧ (looping k.1 k.2).draining = false ∧ 0 < (looping k.1 k.2).stages) ∧
    3 < 3 + 2 - 1 ∧ ((inLoop 3 3).ctx 0).preemptReq = false ∧ (∀ st < 4, (((inLoop 3 3).ctx 0).preg (8 + st)).pend = []) ∧ 3 + 2 - 1 ≤ 4 ∧
    ∃ goal, (inLoop 0 0).skipBundles 0 1 4 = .ok goal := by
  refine ⟨by decide +kernel, by decide +kernel, by decide +kernel, by decide +kernel, by decide +kernel, _, rfl⟩

theorem ok_of {ε α : Type} {r : Except ε α} (h : r.toOption.isSome = true) : ∃ a, r = .ok a := by
  cases r with
  | ok a => exact ⟨a, rfl⟩
  | error _ => simp [Except.toOption] at h

/-- Predicate p1 selects the last lane alone; v1 holds 7 in every lane. -/
def sevens : VReg := BitVec.ofNat 2048 (7 * ((2 ^ 2048 - 1) / (2 ^ 32 - 1)))
def vectors : State := on fun x => { x with p := [(1, Cell.of (2 ^ 63))], v := [(1, Cell.of sevens)], s := [(1, Cell.of 64)] }

/-- The hypotheses of the statements about element-wise instructions, lane moves, reductions, conversions (codes 0x11 and 0x12 stand where their clauses
meet) and compares. -/
theorem witness_Vectors : vectors.openV 2 ∧ vectors.hasP 1 (2 ^ 63) ∧ vectors.hasV 1 sevens ∧ vectors.hasV 2 0 ∧ vectors.hasV 31 0 ∧ vectors.hasCsr csrCTL 0 ∧
    vectors.hasS 1 64 ∧ (2 : BitVec 2) ≠ 3 ∧ (0x11 : BitVec 5).toNat < 0x12 ∧ 0x12 ≤ (0x12 : BitVec 5).toNat ∧ (2 : BitVec 5).toNat % 2 = 0 := by
  simp only [State.openV, State.hasP, State.hasV, State.hasCsr, State.hasS]
  and_intros <;> decide +kernel

/-- A base from which 64 words end with the own scratchpad, one in the cluster's store, and an index register of zeros. -/
theorem witness_VectorAccesses : ∀ k ∈ [(0x80000000003FFF00, spadPA 0 0x3FFF00, 8), (0x9000000000000000, clusterPA 0 0, 9), (0xB000000000400000, spadPA 1 0, 11)],
    ∃ b : Word, b = BitVec.ofNat 64 k.1 ∧
    (regs b 0).hasS 1 b ∧ (regs b 0).hasP 0 (BitVec.allOnes 64) ∧ (regs b 0).openV 2 ∧ (regs b 0).hasV 3 0 ∧ (regs b 0).calm ∧
    (regs b 0).cleanLanes (BitVec.allOnes 64) (fun i => k.2.1 + 4 * i) ∧ (0, 4) ∈ elemTable ∧
    (regs b 0).lanesAt 4 k.2.2 (BitVec.allOnes 64) b (fun i => 4 * i) (fun i => k.2.1 + 4 * i) ∧
    (regs b 0).lanesAt 4 k.2.2 (BitVec.allOnes 64) b (fun i => (lane 0 i).toNat) (fun _ => k.2.1) ∧
    lanesInRegion k.2.2 (BitVec.allOnes 64) b (fun i => (lane 0 i).toNat) := by
  intro k h
  simp only [List.mem_cons, List.not_mem_nil, or_false] at h
  rcases h with rfl | rfl | rfl <;> refine ⟨_, rfl, ?_⟩ <;>
    simp only [State.hasS, State.hasP, State.openV, State.hasV, State.calm, State.cleanLanes, State.lanesAt, lanesInRegion] <;>
    and_intros <;> decide +kernel

/-- Bank 1 lent to engine MA from entry 1 on. -/
def lent : State := on fun x => { x with lend := [LendSt.start, ⟨some .ma, none, 0⟩, LendSt.start, LendSt.start] }

/-- A result of a TRPOP of the entry in issue to v31. -/
def popped : State := on fun x => { x with v := [(31, (Cell.of 0).push ⟨.t, 1, 6, 7, true, BitVec.allOnes 2048, 5⟩)] }

/-- A result of slot V of the entry in issue to v31, which R42 does not let slot V see yet. -/
def added : State := on fun x => { x with v := [(31, (Cell.of 0).push ⟨.v, 1, 3, 4, false, BitVec.allOnes 2048, 5⟩)] }

theorem witness_Banks : base.cx.lend.length = 4 ∧ (base.cx.bank 3).at base.cur.entry = none ∧ (∀ e ∈ base.cx.v, e.1 / 8 = 3 → e.2.pend = [] ∧ e.2.landed = []) ∧
    (∃ e ∈ popped.cx.v, e.1 / 8 = 3 ∧ ∃ w ∈ e.2.pend, w.slot ≠ .v ∧ w.entry ≤ popped.cur.entry ∧ ∀ b ∈ popped.cx.syncs, w.entry < b → popped.cur.entry < b + w.lat) ∧
    (∀ b ∈ popped.cx.syncs, b < popped.cur.entry) ∧
    (∃ e ∈ added.cx.v, e.1 / 8 = 3 ∧ ∃ w ∈ e.2.pend ++ e.2.landed, w.entry ≤ added.cur.entry ∧ w.slot = .v ∧ added.cur.entry ≤ w.land) ∧
    lent.cx.lend.length = 4 ∧ (lent.cx.bank 1).at lent.cur.entry = some .ma ∧ (15 : BitVec 5).toNat / 8 = 1 ∧ lent.hasP 0 (BitVec.allOnes 64) ∧ lent.hasS 0 0 ∧
    (∀ r : BitVec 5, lent.openV r → ∃ y, lent.hasV r y) ∧ lent.guard4Is 0 true ∧ lent.cx.supervisor = false := by
  refine ⟨by decide +kernel, by decide +kernel, by decide +kernel, by decide +kernel, by decide +kernel, by decide +kernel, by decide +kernel, by decide +kernel, by decide +kernel,
    by unfold State.hasP; rw [if_pos rfl], by unfold State.hasS; rw [if_pos rfl], fun r h => ⟨0, h, rfl⟩, ⟨BitVec.allOnes 64, by unfold State.hasP; rw [if_pos rfl], by decide⟩, by decide +kernel⟩

/-- A transpose unit of n rows with k in its buffer and one more to land at entry 1. -/
def unit (n k : Nat) : TUnit := { TUnit.start with rows := n, rc := k, pend := [(1, .row 5)] }

theorem witness_Transpose : base.unitGoes 0 ∧ base.openV 2 ∧ base.hasV 2 0 ∧ (base.cx.tu.land base.cur.entry).rows ≤ 64 ∧ (unit 2 2).pend = [(1, .row 5)] ∧ 1 < 2 ∧
    (unit 2 2).rc = (unit 2 2).rows ∧ (unit 2 1).pend = [(1, .row 5)] ∧ (unit 2 1).rc ≠ (unit 2 1).rows :=
  ⟨⟨⟨BitVec.allOnes 64, by unfold State.hasP; decide +kernel, by decide +kernel⟩, by decide +kernel⟩, by unfold State.openV; decide +kernel,
    by unfold State.hasV; decide +kernel, by decide +kernel, rfl, by decide, rfl, rfl, by decide⟩

/-- A context whose engine MA has a format pair, with shape register h1 for A and h2 for B, and bank 0 lent to MA. -/
def engine (pair : MFmt × MFmt) (va vb : ShapeBits) : State := on fun x =>
  { x with
    fmtA := ⟨pair, pair, 0, none, none⟩
    shapeA := [(1, Cell.of va), (2, Cell.of vb)]
    lend := [⟨some .ma, none, 0⟩, LendSt.start, LendSt.start, LendSt.start] }

/-- The 64 × 64 words of a tile, row by row, from the own scratchpad's first byte on. -/
def tileShape : ShapeBits := shape 0x8000000000000000 2 64 64 4 256

theorem unshared (pair : MFmt × MFmt) (va vb : ShapeBits) : (engine pair va vb).sharedTile (63 : BitVec 6).toNat = false := by
  have h (c : Nat) : (4 * (engine pair va vb).q + c) = c := by
    have : (engine pair va vb).q = 0 := by show 0 / 4 = 0; decide
    rw [this]; omega
  have k : (engine pair va vb).cur.ctx = 0 := rfl
  unfold State.sharedTile
  simp only [h, k, List.any_cons, List.any_nil]
  rfl

theorem tileGoes_of (pair : MFmt × MFmt) (va vb : ShapeBits) : (engine pair va vb).tileGoes 0 63 0 := by
  refine ⟨⟨⟨BitVec.allOnes 64, ?_, by decide⟩, ?_⟩, rfl, by decide, by decide, unshared pair va vb, fun _ h => (List.not_mem_nil h).elim,
    ⟨?_, fun _ h => (List.not_mem_nil h).elim, fun _ h => (List.not_mem_nil h).elim, rfl, rfl, rfl⟩⟩
  · unfold State.hasP; rw [if_pos rfl]
  · show base.cx.supervisor = false; decide +kernel
  · show 0 < 512; decide

theorem clean_of (pair : MFmt × MFmt) (va vb : ShapeBits) (a : Nat) : tagAt (engine pair va vb).tags a ≠ tagPoison := by
  show (0 : BitVec 2) ≠ 3
  decide

theorem witness_Tiles : (engine (.fp32, .fp32) tileShape 0).tileGoes 0 63 0 ∧ (engine (.fp32, .fp32) tileShape 0).usesShape (engShape 0 1) 0 tileShape ∧
    (engine (.fp32, .fp32) tileShape 0).disp.loop = none ∧ (∃ offs, placeTile tileShape 0 4 = .ok offs ∧
      (∀ o ∈ offs, tagAt (engine (.fp32, .fp32) tileShape 0).tags (spadPA 0 o) ≠ tagPoison)) ∧ (drainFmt 0).2 = 4 ∧
    ((engine (.fp32, .fp32) tileShape 0).cx.fmt (engOf 0)).lastPush = none := by
  refine ⟨tileGoes_of _ _ _, ⟨tileShape, 0, rfl, rfl, rfl⟩, rfl, ?_, rfl, rfl⟩
  obtain ⟨offs, h⟩ := ok_of (r := placeTile tileShape 0 4) (by decide +kernel)
  exact ⟨offs, h, fun o _ => clean_of _ _ _ _⟩

/-- n lines of 16 bytes in the first bank group, and in the second. -/
def lines (n : Nat) (b : Word) : ShapeBits := shape b 4 n 1 16 0

/-- An INT8 pair and, for MCMA, the FP32 pair; E4M3 takes scales, so that v = 1 is allowed. -/
theorem witness_Pushes : (∀ pair : MFmt × MFmt, ∀ n : Nat, (engine pair (lines n 0x8000000000000000) (lines n 0x8000000000200000)).tileGoes 0 63 0 ∧
      (engine pair (lines n 0x8000000000000000) (lines n 0x8000000000200000)).disp.loop = none ∧
      ((engine pair (lines n 0x8000000000000000) (lines n 0x8000000000200000)).cx.fmt (engOf 0)).at 1 = pair ∧
      (engine pair (lines n 0x8000000000000000) (lines n 0x8000000000200000)).cx.scale (engOf 0) = Cell.of scaleStart ∧
      (engine pair (lines n 0x8000000000000000) (lines n 0x8000000000200000)).usesShape (engShape 0 1) 0 (lines n 0x8000000000000000) ∧
      (engine pair (lines n 0x8000000000000000) (lines n 0x8000000000200000)).usesShape (engShape 0 2) 0 (lines n 0x8000000000200000) ∧
      ((engine pair (lines n 0x8000000000000000) (lines n 0x8000000000200000)).cx.bank 0).at 1 = some (engOf 0) ∧
      ∀ offs len, (engine pair (lines n 0x8000000000000000) (lines n 0x8000000000200000)).cleanLines offs len) ∧
    lineLen .int8 (pairDepth (.int8, .int8)) = 16 ∧ (pairScales (.e4m3, .e4m3)).1 = true ∧
    ∀ n ∈ [32, 64], ∃ oa ob, placeLines (lines n 0x8000000000000000) 0 16 n = .ok oa ∧ placeLines (lines n 0x8000000000200000) 0 16 n = .ok ob ∧
      bankCheck oa 16 ob 16 = .ok () := by
  refine ⟨fun pair n => ⟨tileGoes_of _ _ _, rfl, rfl, rfl, ⟨_, 0, rfl, rfl, rfl⟩, ⟨_, 0, rfl, rfl, rfl⟩, rfl, fun _ _ _ _ _ _ => clean_of _ _ _ _⟩, rfl, rfl, ?_⟩
  have check (a b : Except Flt (List Nat)) (h : (a.toOption.elim false fun x => b.toOption.elim false fun y => (bankCheck x 16 y 16).toOption.isSome) = true) :
      ∃ oa ob, a = .ok oa ∧ b = .ok ob ∧ bankCheck oa 16 ob 16 = .ok () := by
    cases a with
    | error _ => simp [Except.toOption] at h
    | ok x =>
      cases b with
      | error _ => simp [Except.toOption] at h
      | ok y => exact ⟨x, y, rfl, rfl, (ok_of h).elim fun _ e => e⟩
  intro n h
  simp only [List.mem_cons, List.not_mem_nil, or_false] at h
  rcases h with rfl | rfl <;> exact check _ _ (by decide +kernel)

/-- An object of 4096 bytes in the first unit of HBM, with one segment and a stream. -/
def obj (r : Role) (t : Option Stream) : Obj := ⟨true, true, false, 3, 0, 0, 4096, 1, 0, 5, 0, 0, 0, [⟨4096, r, none, none⟩], t, []⟩

/-- A stream of two producers, of which the first half is published. -/
def stream : Stream := ⟨0, 8, 8, [], true, 2, [], 0, 0, none⟩

/-- Registers s1 and s2 hold operands, X shape register h0 the shape of two 4-byte elements, and die 0 holds one object in slot 0. -/
def moving (va vb : Word) (o : Obj) : State :=
  (on fun x => { x with s := [(1, Cell.of va), (2, Cell.of vb)], shapeA := [(12, Cell.of (shape 0 2 2 1 4 0))] }).modDie 0 fun d => { d with objs := [(0, o)] }

theorem moveGoes_of (va vb : Word) (o : Obj) : (moving va vb o).moveGoes 0 0 0 1 2 va vb (shape 0 2 2 1 4 0) := by
  refine ⟨⟨BitVec.allOnes 64, ?_, by decide⟩, rfl, ?_, ?_, ⟨_, 0, rfl, rfl, rfl⟩, by decide +kernel, rfl⟩
  · unfold State.hasP; rw [if_pos rfl]
  · unfold State.hasS; rw [if_neg (by decide)]; rfl
  · unfold State.hasS; rw [if_neg (by decide)]; rfl

/-- The strong handle of slot 0 of die 0, generation 0; a word of the own scratchpad. -/
def handle : Word := 0x4000000000000000
def here : Word := 0x8000000000000100

/-- The bytes of two words from a physical number on. -/
def twoWords (pa : Nat) : List PByte := (span pa 8).map PByte.at

theorem witness_Copies : (moving here 0x9000000000000000 (obj .own none)).moveGoes 0 0 0 1 2 here 0x9000000000000000 (shape 0 2 2 1 4 0) ∧
    (Instr.tmov, MoveKind.tmov, Accept.any, Accept.any, true).2 = (MoveKind.tmov, Accept.any, Accept.any, true) ∧
    (let s := moving here 0x9000000000000000 (obj .own none)
     s.cur.ctx < 512 ∧
      s.endOf s.cur.ctx s.cx.uid here .any false (some .read) (s.foot 0 (shape 0 2 2 1 4 0) 4) true true = .ok ⟨twoWords (spadPA 0 256), none, false, []⟩ ∧
      s.endOf s.cur.ctx s.cx.uid 0x9000000000000000 .any true (some .write) (s.foot 0 (shape 0 2 2 1 4 0) 4) false true = .ok ⟨twoWords (clusterPA 0 0), none, false, []⟩ ∧
      s.scored (coreOf s.cur.ctx) ≤ 30 ∧ s.held s.cur.ctx (endBytes (twoWords (spadPA 0 256)) ++ endBytes (twoWords (clusterPA 0 0))) = false) ∧
    (moving here 0x9000000000000000 (obj .own none)).plainEnds (twoWords (spadPA 0 256) ++ twoWords (clusterPA 0 0)) :=
  ⟨moveGoes_of _ _ _, rfl, by decide +kernel, fun _ _ _ => rfl⟩

theorem witness_OtherMoves :
    (∀ va vb o, (moving va vb o).moveGoes 0 0 0 1 2 va vb (shape 0 2 2 1 4 0) ∧ (moving va vb o).cur.ctx < 512 ∧ (moving va vb o).moves = [] ∧ ∀ l, (moving va vb o).plainEnds l) ∧
    (let s := moving here 1 (obj .own none)
     let f := s.foot 0 (shape 0 2 2 1 4 0) (shEs (shape 0 2 2 1 4 0))
     s.endOf s.cur.ctx s.cx.uid here .any false (some .read) f true false = .ok ⟨twoWords (spadPA 0 256), none, false, []⟩ ∧
      multicastEnd f 1 = .ok ⟨twoWords 0, none, false, []⟩) ∧
    (let o := obj (.flow 4) (some stream)
     let s := moving handle here o
     let f := s.foot 0 (shape 0 2 2 1 4 0) (shEs (shape 0 2 2 1 4 0))
     let src : EndPt := ⟨twoWords (hbmPA 0), some (0, 0), false, [(0, 0, 0, 4), (0, 0, 4, 4)]⟩
     s.endOf s.cur.ctx s.cx.uid handle .far false (some .flowRead) f false true = .ok src ∧
      s.endOf s.cur.ctx s.cx.uid here .near true (some .write) f true true = .ok ⟨twoWords (spadPA 0 256), none, false, []⟩ ∧
      s.flowOf src handle = .ok (some (0, 0, o, 0)) ∧ o.stream = some stream ∧ o.brk = false ∧ f.es * f.n % o.flowSize = 0 ∧ 0 % o.flowSize = 0 ∧ 0 = stream.c ∧
      s.obj 0 0 = some o) ∧
    (let o := obj (.flow 4) (some stream)
     let s := moving here handle o
     let f := s.foot 0 (shape 0 2 2 1 4 0) (shEs (shape 0 2 2 1 4 0))
     let dst : EndPt := ⟨(span (hbmPA 0) 4).map PByte.at, some (0, 0), false, [(0, 0, 0, 4)]⟩
     s.endOf s.cur.ctx s.cx.uid here .near false (some .read) f true true = .ok ⟨twoWords (spadPA 0 256), none, false, []⟩ ∧
      s.flowDest s.cur.ctx s.cx.uid handle f = .ok dst ∧ s.eoss = [] ∧ s.flowOf dst handle = .ok (some (0, 0, o, 0)) ∧
      o.stream = some stream ∧ o.brk = false ∧ f.es * f.n % o.flowSize = 0 ∧ 0 % o.flowSize = 0 ∧ (stream.append = true → 0 = o.flowStart) ∧
      o.reserve stream s.cx.uid 0 (f.es * f.n) = .at 8 ∧ s.obj 0 0 = some o) ∧
    (let s := moving here handle (obj (.fold 0 0) none)
     let f := s.foot 0 (shape 0 2 2 1 4 0) (shEs (shape 0 2 2 1 4 0))
     s.endOf s.cur.ctx s.cx.uid here .near false (some .read) f false true = .ok ⟨twoWords (spadPA 0 256), none, false, []⟩ ∧
      (s.foldEnd s.cur.ctx s.cx.uid handle f).toOption.map (·.2) = some [(0, 0), (0, 0)]) := by
  refine ⟨fun va vb o => ⟨moveGoes_of _ _ _, by show 0 < 512; decide, rfl, fun _ _ _ _ => rfl⟩, ?_⟩
  dsimp only
  and_intros <;> decide +kernel

/-- Moves of two 4-byte elements, by shape register h3 but where a kind has none: from the own scratchpad to the cluster's store, or from one list of bytes to another. -/
def between (k : MoveKind) (h : Nat) (src dst : List PByte) : Move :=
  ⟨7, 0, 1, h, k, 1, 4, 2, 2, src, dst, [], [], none, [], 0, false, false, false, false, false, false, 0, 1, none, [], [], [], 0, 0⟩
def move (k : MoveKind) (h : Nat) : Move := between k h (twoWords (spadPA 0 256)) (twoWords (clusterPA 0 0))

/-- A move in flight beside one object, in slot 0 of die 0. -/
def inFlight (m : Move) (o : Obj) : State := { base.modDie 0 (fun d => { d with objs := [(0, o)] }) with moves := [m] }

theorem movesFrom_of (m : Move) (o : Obj) (sp : List Nat)
    (h : (inFlight m o).mayMove m ∧ m.gone = false ∧ m.broken = false ∧ m.quiet = false ∧ m.ends = [] ∧ m.data = none ∧ m.sent = false ∧ m.passed = 0 ∧
      m.src = sp.map PByte.at ∧ sp.length = m.es * m.n ∧ 0 < m.es ∧ m.h < 4 ∧ (inFlight m o).poisoned sp = false) : (inFlight m o).movesFrom m sp := by
  obtain ⟨a, b, c, d, e, f, g, i, j, k, l, n, p⟩ := h
  refine ⟨a, b, c, d, fun x hx => ?_, f, g, i, j, k, l, n, p, fun c => ?_⟩
  · rw [e] at hx; exact (List.not_mem_nil hx).elim
  · cases c <;> rfl

/-- A stream of which the first word is published and that has ended there. -/
def ended : Stream := { stream with p := 4, final := some 4 }

/-- The moves of O37 with the bytes of their ends: copies, TMC to two cores, TLDF of published and of ended elements, TSTF. -/
def movers : List (Move × Obj × List Nat × List Nat) :=
  [(move .tmov 3, obj .own none, span (spadPA 0 256) 8, span (clusterPA 0 0) 8), (move .tld 3, obj .own none, span (spadPA 0 256) 8, span (clusterPA 0 0) 8),
   ({ between .tmc 3 (twoWords (spadPA 0 256)) (twoWords 0) with mask := 3 }, obj .own none, span (spadPA 0 256) 8, span 0 8),
   ({ between .tldf 3 (twoWords (hbmPA 0)) (twoWords (spadPA 0 256)) with flow := some ⟨0, 0, 0, 8⟩ }, obj (.flow 4) (some stream), span (hbmPA 0) 8, span (spadPA 0 256) 8),
   ({ between .tldf 3 (twoWords (hbmPA 0)) (twoWords (spadPA 0 256)) with flow := some ⟨0, 0, 0, 8⟩ }, obj (.flow 4) (some ended), span (hbmPA 0) 8, span (spadPA 0 256) 8),
   ({ between .tstf 3 (twoWords (spadPA 0 256)) (twoWords (hbmPA 8)) with flow := some ⟨0, 0, 8, 8⟩ }, obj (.flow 4) (some stream), span (spadPA 0 256) 8, span (hbmPA 8) 8)]

/-- A TACC to the first two words of a Fold object. -/
def adder : Move := { between .tacc 3 (twoWords (spadPA 0 256)) [.at (hbmPA 0), .at (hbmPA 4)] with folds := [(0, 0), (0, 0)] }

theorem witness_MoveCompletion : (∀ k ∈ movers, (inFlight k.1 k.2.1).movesFrom k.1 k.2.2.1 ∧ k.1.dst = k.2.2.2.map PByte.at ∧ k.2.2.2.length = k.1.es * k.1.n ∧ k.2.2.2.Nodup ∧
      (∀ a ∈ k.2.2.2, k.1.offEntry a) ∧ (k.1.kind = .tmc → ∀ o ∈ k.2.2.2, o < 0x3FFE00) ∧ ∀ p ∈ ((inFlight k.1 k.2.1).core 0).replay, ∀ f, p.kind ≠ .flow f) ∧
    (∀ k ∈ [(stream, 8), (ended, 4)], (inFlight (between .tldf 3 (twoWords (hbmPA 0)) (twoWords (spadPA 0 256))) (obj (.flow 4) (some k.1))).obj 0 0 = some (obj (.flow 4) (some k.1)) ∧
      k.1.ready 0 8 = some k.2 ∧ k.2 ≤ 8) ∧
    ((inFlight adder (obj (.fold 0 0) none)).movesFrom adder (span (spadPA 0 256) 8) ∧ adder.dst = [hbmPA 0, hbmPA 4].map PByte.at ∧ adder.folds.length = adder.n ∧ foldWord 0 = 4 ∧
      (∀ i < 2, ∀ a ∈ span ([hbmPA 0, hbmPA 4].getD i 0) 4, adder.offEntry a) ∧ (∀ a ∈ span (hbmPA 0) 4, a ∉ span (hbmPA 4) 4) ∧ ∀ a ∈ span (hbmPA 4) 4, a ∉ span (hbmPA 0) 4) ∧
    ((inFlight (move .ttag 4) (obj .own none)).mayMove (move .ttag 4) ∧ ∀ a ∈ span (clusterPA 0 0) 8, inStore a = true ∧ a / 8 * 8 ∈ span (clusterPA 0 0) 8) ∧
    (let m := { move .preq 4 with pages := [(1, .present)] }
     (inFlight m (obj .own none)).mayMove m) ∧
    (let s : State := { (on fun x => { x with p := [(1, (Cell.of 0).push ⟨.x, 1, 0, statusLand 7 3, false, 0, 0⟩)] }) with moves := [move .tmov 3] }
     (s.ctx 0).uid = 1 ∧ (∀ k ∈ (s.ctx 0).task, k.dead = false) ∧ (∃ k ∈ ((s.ctx 0).preg 1).pend, k.slot = .x ∧ k.land = statusLand 7 3) ∧
       ∀ o ∈ s.moves, o.ctx = 0 → o.h = 3 → o.id = 7) := by
  have goes : ∀ k ∈ movers, (inFlight k.1 k.2.1).movesFrom k.1 k.2.2.1 := by
    intro k h
    simp only [movers, List.mem_cons, List.not_mem_nil, or_false] at h
    rcases h with rfl | rfl | rfl | rfl | rfl | rfl <;> exact movesFrom_of _ _ _ (by unfold State.mayMove; decide +kernel)
  have ends : ∀ k ∈ movers, k.1.dst = k.2.2.2.map PByte.at ∧ k.2.2.2.length = k.1.es * k.1.n ∧ k.2.2.2.Nodup ∧ (∀ a ∈ k.2.2.2, k.1.offEntry a) ∧
      (k.1.kind = .tmc → ∀ o ∈ k.2.2.2, o < 0x3FFE00) ∧ ((inFlight k.1 k.2.1).core 0).replay = [] := by
    unfold Move.offEntry; decide +kernel
  refine ⟨fun k h => ?_, by decide +kernel, ⟨movesFrom_of _ _ _ (by unfold State.mayMove; decide +kernel), ?_⟩, ?_, ?_, by decide +kernel⟩
  · obtain ⟨a, b, c, d, e, f⟩ := ends k h
    exact ⟨goes k h, a, b, c, d, e, fun p hp => by rw [f] at hp; exact (List.not_mem_nil hp).elim⟩
  · unfold Move.offEntry; and_intros <;> decide +kernel
  · unfold State.mayMove; decide +kernel
  · unfold State.mayMove; decide +kernel

/-- SLD of two bytes at the end of the own scratchpad; TTAG of its last word; PREQ of the last page of window 0x0. -/
def sldShape : ShapeBits := shape 0 0 2 1 1 0
def sldState (va vb : Word) : State := on fun x => { x with s := [(1, Cell.of va), (2, Cell.of vb)], shapeA := [(12, Cell.of sldShape)] }

theorem sldGoes_of (va vb : Word) : (sldState va vb).moveGoes 0 0 0 1 2 va vb sldShape ∧ (sldState va vb).calm := by
  refine ⟨⟨⟨BitVec.allOnes 64, ?_, by decide⟩, rfl, ?_, ?_, ⟨_, 0, rfl, rfl, rfl⟩, by decide +kernel, rfl⟩, by show 0 < 512; decide, fun _ h => (List.not_mem_nil h).elim, fun _ h => (List.not_mem_nil h).elim, rfl, rfl, rfl⟩
  · unfold State.hasP; rw [if_pos rfl]
  · unfold State.hasS; rw [if_neg (by decide)]; rfl
  · unfold State.hasS; rw [if_neg (by decide)]; rfl

theorem witness_ScaleLoads : ((sldState 0x80000000003FFFFE 0).moveGoes 0 0 0 1 2 0x80000000003FFFFE 0 sldShape ∧ (sldState 0x80000000003FFFFE 0).calm) ∧
    ((sldState lastWord 8).moveGoes 0 0 0 1 2 lastWord 8 sldShape ∧ (sldState lastWord 8).calm) ∧
    ((sldState 0x1FFFFFFFFFFF000 4096).moveGoes 0 0 0 1 2 0x1FFFFFFFFFFF000 4096 sldShape ∧ (sldState 0x1FFFFFFFFFFF000 4096).calm) ∧
    (sldState lastWord 8).disp.loop = none ∧ shCount sldShape ≤ 512 ∧ (0x80000000003FFFFE : Word).toNat / 2 ^ 22 = 2 ^ 41 ∧
    (∀ i < shCount sldShape, homeAt 0 (0x80000000003FFFFE + BitVec.ofInt 64 ((shBase sldShape).toInt + footTerm sldShape i)) = some (spadPA 0 0x3FFFFE + i) ∧
      (0x80000000003FFFFE + BitVec.ofInt 64 ((shBase sldShape).toInt + footTerm sldShape i)).toNat / 2 ^ 60 = 8 ∧
      tagAt (sldState lastWord 8).tags (spadPA 0 0x3FFFFE + i) ≠ tagPoison) ∧
    homeAt 0 lastWord = some (spadPA 0 0x3FFFF8) ∧ lastWord.toNat % 8 = 0 ∧ lastWord.toNat % 2 ^ 22 + 8 ≤ 2 ^ 22 ∧ (0x1FFFFFFFFFFF000 : Word).toNat + 4096 ≤ 2 ^ 57 := by
  refine ⟨sldGoes_of _ _, sldGoes_of _ _, sldGoes_of _ _, rfl, ?_⟩
  decide +kernel

theorem witness_Twait : (∀ g ∈ [tagFull, tagEmpty], (tagged 0 g).guard4Is 0 true ∧ (tagged 0 g).hasS 1 lastWord ∧ (tagged 0 g).calm ∧
      (∀ m ∈ (tagged 0 g).moves, m.ctx ≠ (tagged 0 g).cur.ctx) ∧ lastWord.toNat / 2 ^ 22 = 2 ^ 41 ∧ lastWord.toNat % 8 = 0 ∧ tagAt (tagged 0 g).tags (spadPA 0 0x3FFFF8) = g) ∧
    (let u := waits .twait (.twait 0 1 1) (fun x => { x with s := [(1, Cell.of lastWord)] }) [lastWord]
     (u.ctx 0).waiting .twait = [(bundleOf (queuedSyl (.twait 0 1 1) (some .twait) [lastWord]), queuedSyl (.twait 0 1 1) (some .twait) [lastWord])] ∧
      (issuing u .twait (.twait 0 1 1) [lastWord]).guard4Is 0 true ∧ (issuing u .twait (.twait 0 1 1) [lastWord]).hasS 1 lastWord) ∧
    (let k : Write 64 := ⟨.x, 1, 0, statusBase + 8 * 7 + 3, false, BitVec.allOnes 64, BitVec.allOnes 64⟩
     let s := on fun x => { x with p := [(1, (Cell.of 0).push k)] }
     0x80000000003FFE60 = 2 ^ 63 + complOff s.cur.ctx 3 ∧ k ∈ (s.cx.preg 1).pend ∧ k.slot = .x ∧ k.mask ≠ 0 ∧ statusBase ≤ k.land ∧ k.land % 8 = 3) := by
  refine ⟨fun g h => ?_, by dsimp only; simp only [State.guard4Is, State.hasP, State.hasS]; and_intros <;> decide +kernel, by decide +kernel⟩
  simp only [List.mem_cons, List.not_mem_nil, or_false] at h
  rcases h with rfl | rfl <;> simp only [State.guard4Is, State.hasP, State.hasS, State.calm] <;> and_intros <;> decide +kernel

/-- s1 and s2 hold values and two words of the own scratchpad, or one barrier, hold bytes and tags. -/
def words (v u : Word) (bytes : List (Nat × Byte)) (g : BitVec 2) (pa : Nat) : State :=
  { regs v u with mem := writeAll [] bytes, tags := setTag (setTag [] pa g) (pa + 8) g }

/-- The last 16 bytes of the own scratchpad; a barrier of one arrival, of scope 2, in phase 2^29 - 1, armed with 1. -/
def barWord : Word := 0x80000000003FFFF0
def barAt : Nat := spadPA 0 0x3FFFF0
def barrier (v u : Word) : State :=
  words v u ((leBytes 8 (2 ^ 62 + (2 ^ 29 - 1) * 2 ^ 32 + 1) ++ leBytes 8 1).zipIdx.map fun e => (barAt + e.2, e.1)) tagFull barAt
def arrived (ph : Nat) : State := (barrier barWord 0).modCtx 0 fun x => { x with arrival := some (barAt, ph) }

theorem witness_Barriers : (∀ u : Word, u = 0x400000001 ∨ u = 0x1FFFFFFFF → (barrier barWord u).hasS 1 barWord ∧ (barrier barWord u).hasS 2 u ∧ (barrier barWord u).calm ∧ (barrier barWord u).released ∧
      homeAt (coreOf (barrier barWord u).cur.ctx) barWord = some barAt ∧ barWord.toNat % 16 = 0 ∧ u.toNat % 2 ^ 32 ≠ 0 ∧ homeLevel barAt ≤ u.toNat / 2 ^ 32 ∧ u.toNat / 2 ^ 32 ≤ 4 ∧
      tagAt (barrier barWord u).tags barAt = tagFull ∧ readNat (barrier barWord u).mem barAt 8 % 2 ^ 32 = 1) ∧
    (∀ ph, ph = 5 ∨ ph = 2 ^ 29 - 1 → (arrived ph).hasS 1 barWord ∧ (arrived ph).hasS 2 0 ∧ (arrived ph).calm ∧ (arrived ph).released ∧ (arrived ph).cx.arrival = some (barAt, ph) ∧ (arrived ph).cx.waitP0 = none ∧
      tagAt (arrived ph).tags barAt = tagFull ∧ phaseOf (readNat (arrived ph).mem barAt 8) = 2 ^ 29 - 1) ∧
    (∀ k ∈ [(Block.waitb, Instr.waitb 1 3), (.join, .join 1 3)], let u := waits k.1 k.2 (fun x => { x with s := [(1, Cell.of barWord)] }) [barWord]
      (u.ctx 0).waiting k.1 = [(bundleOf (queuedSyl k.2 (some k.1) [barWord]), queuedSyl k.2 (some k.1) [barWord])] ∧ (u.ctx 0).waiting .broken = [] ∧
        (issuing u k.1 k.2 [barWord]).hasS 1 barWord) ∧ (barrier barWord 0x400000001).unwaited barAt ∧
    (let q : Queued := { queuedSyl (.ldf 3 1 0) (some .tagged) with word := some barAt }
     let s := (barrier barWord 0x400000001).modCtx 1 fun x => { x with queue := [bundleOf q] }
     bundleOf q ∈ (s.ctx 1).queue ∧ q ∈ (bundleOf q).left ∧ 1 ≠ s.cur.ctx ∧ q.blk = some .tagged ∧ q.word = some barAt) := by
  have quiet (pa : Nat) : (barrier barWord 0x400000001).waitless pa := by
    refine ⟨fun c d h => ?_, fun n e h => ?_⟩
    · have : ((barrier barWord 0x400000001).ctx c).queue = [] := by cases c <;> rfl
      rw [this] at h
      exact (List.not_mem_nil h).elim
    · have : ((barrier barWord 0x400000001).fn n).flag = none := rfl
      rw [this] at h
      cases h
  refine ⟨?_, ?_, by simp only [State.hasS]; decide +kernel, ⟨quiet _, quiet _⟩, by decide +kernel⟩
  · rintro u (rfl | rfl) <;> simp only [State.hasS, State.calm, State.released] <;> and_intros <;> decide +kernel
  · rintro u (rfl | rfl) <;> simp only [State.hasS, State.calm, State.released] <;> and_intros <;> decide +kernel

/-- A join word that holds 0, that holds 1, that is BROKEN, that is EMPTY. -/
def joinState (v : Byte) (g : BitVec 2) : State := words lastWord 0 [(spadPA 0 0x3FFFF8, v)] g (spadPA 0 0x3FFFF8)

theorem witness_Joins : ∀ k ∈ [(0, tagFull), (1, tagFull), (0, tagBroken), (0, tagEmpty)], (joinState (BitVec.ofNat 8 k.1) k.2).hasS 1 lastWord ∧
    (joinState (BitVec.ofNat 8 k.1) k.2).calm ∧ homeAt (coreOf (joinState (BitVec.ofNat 8 k.1) k.2).cur.ctx) lastWord = some (spadPA 0 0x3FFFF8) ∧ lastWord.toNat % 8 = 0 ∧
    tagAt (joinState (BitVec.ofNat 8 k.1) k.2).tags (spadPA 0 0x3FFFF8) = k.2 ∧ readNat (joinState (BitVec.ofNat 8 k.1) k.2).mem (spadPA 0 0x3FFFF8) 8 = k.1 := by
  simp only [State.hasS, State.calm]
  decide +kernel

/-- Registers, and one object in slot 0 of die 0. -/
def objects (v u : Word) (o : Obj) : State := (regs v u).modDie 0 fun d => { d with objs := [(0, o)] }

/-- A message to the last word of the own scratchpad. -/
def message : Msend := ⟨7, 0, lastWord, 0, 1, 1, 0, 0, (span (spadPA 0 0x3FFFF8) 8).map PByte.at, none, none, false, 9, true, false, [], 5⟩
def token : EosMsg := ⟨7, 0, handle, 0, 1, 1, 0, 0, some (0, 0), false, none, false, [], 5⟩

theorem witness_Messages : ((regs lastWord 9).hasS 1 lastWord ∧ (regs lastWord 9).hasS 2 9 ∧ (regs lastWord 9).cx.speculative = false ∧
      homeAt (coreOf (regs lastWord 9).cur.ctx) lastWord = some (spadPA 0 0x3FFFF8) ∧ lastWord.toNat % 8 = 0) ∧
    ((objects handle 9 (obj (.fold 4 0) none)).hasS 1 handle ∧ (objects handle 9 (obj (.fold 4 0) none)).hasS 2 9 ∧ (objects handle 9 (obj (.fold 4 0) none)).cx.speculative = false ∧
      homeAt (coreOf (objects handle 9 (obj (.fold 4 0) none)).cur.ctx) handle = none ∧ handle.toNat / 2 ^ 60 < 8 ∧
      ((objects handle 9 (obj (.fold 4 0) none)).foldEnd (objects handle 9 (obj (.fold 4 0) none)).cur.ctx (objects handle 9 (obj (.fold 4 0) none)).cx.uid handle (oneElem 4)).toOption.map
        (fun r => (r.1.gone, r.2)) = some (false, [(4, 0)])) ∧
    ((objects handle 0 (obj (.flow 4) (some stream))).hasS 1 handle ∧ handle.toNat / 2 ^ 60 ≠ 1 ∧
      (∃ e, (objects handle 0 (obj (.flow 4) (some stream))).eosEnd handle = .ok e ∧ e.gone = false ∧
        (objects handle 0 (obj (.flow 4) (some stream))).eosObj e handle = .ok (0, 0, obj (.flow 4) (some stream))) ∧
      (objects handle 0 (obj (.flow 4) (some stream))).obj 0 0 = some (obj (.flow 4) (some stream)) ∧ stream.canBind (objects handle 0 (obj (.flow 4) (some stream))).cx.uid = true) ∧
    ({ base with msends := [message] }.msends.find? (fun o => o.id = message.id) = some message ∧ { base with msends := [message] }.msendReady message = true ∧ message.wide = true ∧ (∀ e, Strike.message message.id e ∉ base.strikes) ∧
      spadPA 0 0x3FFFF8 % 8 = 0 ∧ inStore (spadPA 0 0x3FFFF8) = true ∧ tagAt { base with msends := [message] }.tags (spadPA 0 0x3FFFF8) = tagEmpty ∧ { base with msends := [message] }.invals = []) ∧
    ({ objects 0 0 (obj (.flow 4) (some stream)) with eoss := [token] }.eoss.find? (fun o => o.id = token.id) = some token ∧
      { objects 0 0 (obj (.flow 4) (some stream)) with eoss := [token] }.eosReady token = true ∧
      { objects 0 0 (obj (.flow 4) (some stream)) with eoss := [token] }.obj 0 0 = some (obj (.flow 4) (some stream)) ∧ (obj (.flow 4) (some stream)).brk = false) := by
  simp only [State.hasS]
  and_intros <;> first
    | decide +kernel
    | exact fun e h => (List.not_mem_nil h).elim
    | (refine ⟨⟨[.at (hbmPA 0)], some (0, 0), false, [(0, 0, 0, 1)]⟩, ?_, ?_, ?_⟩ <;> decide +kernel)

/-- A template's words: entry 4, join word in the own scratchpad, a footprint of the largest lengths, word 7 as given. -/
def template (w7 : Word) (i : Nat) : Word :=
  if i = 0 then 4 else if i = 3 then 0x80000004 else if i = 5 then 0x7FF880000000 else if i = 7 then w7 else 0

/-- s1 and s2 name the Own segment of an object, s3 condition 0 with probability 2^15; template 3 is set. -/
def spawner (w : Nat → Word) (depth : Nat) (deque : List QRec) : State :=
  (({ base with tags := setTag [] (spadPA 0 8) tagFull, cores := [(0, { Core.start with deque := deque })] }.modCtx 0 fun x => { x with
      s := [(1, Cell.of handle), (2, Cell.of 0), (3, Cell.of 0x80000000)]
      csr := [0, 3, 4, 5, 7].map fun i => (40 + i, Cell.of (w i))
      task := some { task with trec := { task.trec with depth := depth } } }).modDie 0 fun d =>
    { d with objs := [(0, { obj .own none with segs := [⟨4096, .own, some 1, none⟩] })], conds := [(0, ⟨0, 0, 1, false, 0, false, 0⟩)] })

/-- A queued record of no condition. -/
def queued (uid : Nat) (conds : List (BitVec 8)) : QRec := ⟨{ task.trec with conds := conds, core := 0 }, uid, 0, none, false⟩

theorem witness_SpawnHypotheses : ∀ k : Word × Nat × List QRec, (k.1 = 0x100 ∨ k.1 = 0x180 ∨ k.1 = 0) → k.2.1 ≤ 31 →
    (spawner (template k.1) k.2.1 k.2.2).cur.ctx < 512 ∧ (spawner (template k.1) k.2.1 k.2.2).hasS 1 handle ∧ (spawner (template k.1) k.2.1 k.2.2).hasS 2 0 ∧
    (spawner (template k.1) k.2.1 k.2.2).hasS 3 0x80000000 ∧ (∀ i ∈ [0, 3, 4, 5, 7], (spawner (template k.1) k.2.1 k.2.2).hasCsr (16 + 8 * (3 : BitVec 2).toNat + i) (template k.1 i)) ∧
    (spawner (template k.1) k.2.1 k.2.2).hasCsr csrCTL 0 ∧ (spawner (template k.1) k.2.1 k.2.2).cx.task = some { task with trec := { task.trec with depth := k.2.1 } } ∧
    (spawner (template k.1) k.2.1 k.2.2).released ∧ (spawner (template k.1) k.2.1 k.2.2).cx.stores = [] ∧
    (spawner (template k.1) k.2.1 k.2.2).dieResolving 0 = false := by
  rintro ⟨w, n, l⟩ h -
  refine ⟨by show 0 < 512; decide, ?_, ?_, ?_, ?_, rfl, rfl, ?_, rfl, rfl⟩
  · unfold State.hasS; rw [if_neg (by decide)]; rfl
  · unfold State.hasS; rw [if_neg (by decide)]; rfl
  · unfold State.hasS; rw [if_neg (by decide)]; rfl
  · intro i hi
    simp only [List.mem_cons, List.not_mem_nil, or_false] at hi
    rcases hi with rfl | rfl | rfl | rfl | rfl <;> rfl
  · refine ⟨fun _ h => (List.not_mem_nil h).elim, fun _ h => (List.not_mem_nil h).elim, fun _ h => (List.not_mem_nil h).elim, ?_⟩
    have h : coreOf (spawner (template w) n l).cur.ctx = 0 := by show 0 / 4 = 0; decide
    simp only [h]
    rfl

/-- Word 7 zero is no valid template; an unpinned and a pinned one are, below depth 31 and with room, at depth 31, and with a deque of 64 records. -/
theorem witness_Spawns : ¬ (spawner (template 0) 0 []).templateGood task (template 0) ∧
    (∀ w : Word, w = 0x100 ∨ w = 0x180 → (spawner (template w) 30 []).templateGood { task with trec := { task.trec with depth := 30 } } (template w) ∧
      (spawner (template w) 31 []).templateGood { task with trec := { task.trec with depth := 31 } } (template w) ∧
      (spawner (template w) 0 (List.replicate 64 (queued 9 []))).templateGood task (template w) ∧ 64 ≤ ((spawner (template w) 0 (List.replicate 64 (queued 9 []))).core 0).deque.length ∧
      spawnCore 0 (template w) = 0 ∧ task.trec.conds = [] ∧ (spawner (template w) 30 []).ownCheck handle 0 = .ok ()) ∧
    locPA 0 0x80000004 = some (spadPA 0 8) ∧ tagAt (spawner (template 0x100) 30 []).tags (spadPA 0 8) = tagFull ∧
    (0x80000000 : Word).toNat < 2 ^ 42 ∧ bitsAt 0x80000000 9 7 = 0 ∧ bitsAt 0x80000000 32 10 = 0 ∧ bitsAt 0x80000000 16 16 ≤ 2 ^ 15 ∧
    ((spawner (template 0x100) 30 []).die 0).conds.find? (fun e => e.1 = bitsAt 0x80000000 0 8) = some (bitsAt 0x80000000 0 8, ⟨0, 0, 1, false, 0, false, 0⟩) := by
  simp only [State.templateGood]
  refine ⟨by decide +kernel, ?_, ?_⟩
  · rintro w (rfl | rfl) <;> and_intros <;> decide +kernel
  · decide +kernel

/-- A segment that passes back to task 9, in an object of a machine whose task is ending. -/
def passing : Obj := { obj .own none with segs := [⟨4096, .own, some 1, some 9⟩] }

def passer : State := { objects 0 0 passing with tasks := [(1, ⟨some 9, false, 0⟩), (9, ⟨none, false, 0⟩)] }

/-- Core 1 with a deque; the same with its contexts busy. -/
def queues (l : List QRec) : State := base.modCore 1 fun k => { k with deque := l }
def noFoot : Task := { task with trec := { task.trec with len0 := 0 } }
def busy (l : List QRec) : State := [4, 5, 6, 7].foldl (fun s c => s.modCtx c fun x => { x with task := some noFoot }) (queues l)

/-- A record whose extension block, at 0x1000 of its scratchpad, asks for a prelude of 8 bytes from the object of slot 0 to its footprint. -/
def preluded : QRec := { queued 8 [] with trec := { (queued 8 []).trec with xblk := 0x80000800 } }
def preloading : State :=
  let s := (busy [preluded]).modDie 0 fun d => { d with objs := [(0, obj .fixed none)] }
  { s with mem := writeNat (writeNat (writeNat s.mem (spadPA 1 0x1000) 8 1) (spadPA 1 0x1038) 8 0x4000000000000000) (spadPA 1 0x1040) 8 0x800000000 }

/-- The task that PRELOAD acts for. -/
def preloadTask : Task := ⟨preluded.trec, 8, 0, 0, none, [], [], 0, [], none, false, none⟩

/-- A started task with its prelude to issue. -/
def starting : State := (base.modDie 0 fun d => { d with objs := [(0, obj .fixed none)] }).modCtx 0 fun x =>
  { x with task := some { task with prelude := some ⟨handle, 0, 8, 0⟩ } }

theorem witness_Tasks :
    (passer.cx.task = some task ∧ task.trec.conds = [] ∧ passer.released ∧ passer.cx.stores = [] ∧
      passer.cx.supervisor = false ∧ passer.obj 0 0 = some passing ∧ (passer.taskInfo 9).ended = false) ∧
    (let t : Task := { task with trec := { task.trec with conds := [0] } }
     let s := on fun x => { x with task := some t }
     s.cx.task = some t ∧ t.trec.conds ≠ [] ∧ s.released ∧ s.cx.stores = [] ∧ s.cx.supervisor = false) ∧
    (let s := queues [queued 8 [], queued 7 [], queued 9 [0]]
     (s.die (dieOfCore 1)).replan = false ∧ (s.core 1).deque = [queued 8 []] ++ queued 7 [] :: [queued 9 [0]] ∧ (queued 7 []).trec.conds = [] ∧
      s.startable 1 7 (queued 7 []).trec = true ∧ (queued 9 [0]).trec.conds ≠ []) ∧
    (let s := queues [queued 7 []]
     (s.ctx 7).task = none ∧ s.contextFree 7 = true ∧ s.pick (coreOf 7) = some (.queued 1 (queued 7 [])) ∧ (queued 7 []).trec.footOk = true ∧
      (queued 7 []).trec.xblk = 0) ∧
    (∃ m, (starting.ctx 0).task = some { task with prelude := some ⟨handle, 0, 8, 0⟩ } ∧
      starting.preludeMove 0 { task with prelude := some ⟨handle, 0, 8, 0⟩ } ⟨handle, 0, 8, 0⟩ = .ok m) ∧
    (let s := queues [queued 8 [], queued 9 [0]]
     2 ≠ 1 ∧ 2 / 64 = 1 / 64 ∧ s.anyFree 2 = true ∧ s.pickLocal 2 = none ∧ (s.core 2).stolen = false ∧ (s.core 2).deque.length < 64 ∧ s.loot 2 1 ≠ [] ∧
      2 / 8 = 1 / 8 ∧ ((s.core 1).deque.map QRec.uid).Nodup) ∧
    (let s := preloading.setCtx (4 * 1) { Ctx.idle with task := some preloadTask }
     preloading.preloadable 1 8 = some (preluded, ⟨handle, 0, 8, 0⟩) ∧
      (s.preludeMove (4 * 1) preloadTask ⟨handle, 0, 8, 0⟩).toOption.map (fun m => (m.gone, m.src, m.dst, m.es * m.n)) =
        some (false, (span (hbmPA 0) 8).map PByte.at, (span (spadPA 1 0) 8).map PByte.at, 8) ∧
      (span (hbmPA 0) 8).length = 8 ∧ (span (spadPA 1 0) 8).Nodup ∧ preloading.poisoned (span (hbmPA 0) 8) = false ∧ Strike.preload 8 ∉ preloading.strikes) := by
  dsimp only
  simp only [State.released]
  have h : ∃ m, starting.preludeMove 0 { task with prelude := some ⟨handle, 0, 8, 0⟩ } ⟨handle, 0, 8, 0⟩ = .ok m := ok_of (by decide +kernel)
  and_intros <;> first
    | exact h.elim fun m e => ⟨m, rfl, e⟩
    | decide +kernel

/-- Die 0 with conditions 0 to n - 1 OPEN, of launch 0; s1 and p1 as given. -/
def cond : Cond := ⟨0, 0, 1, false, 0, true, 5⟩
def conditions (n : Nat) (v vp : Word) : State :=
  (on fun x => { x with s := [(1, Cell.of v)], p := [(1, Cell.of vp)] }).modDie 0 fun d => { d with conds := (List.range n).map fun i => (i, cond) }

def lastCond : State := (conditions 0 255 1).modDie 0 fun d => { d with conds := [(255, cond)] }

/-- The same with a queue on core 1, or with a task that depends on condition 0 and has a write buffered in context 1. -/
def queuedConds (vp : Word) (l : List QRec) : State := (conditions 2 0 vp).modCore 1 fun k => { k with deque := l }
def writer : Task := { task with uid := 5, trec := { task.trec with conds := [0] }, effects := [.write 1 [(spadPA 0 8, 7)]] }
def buffered : State := (conditions 2 0 1).modCtx 1 fun x => { x with task := some writer }

theorem witness_Conditions :
    ((conditions 3 0 0).cx.task = some task ∧ (conditions 3 0 0).cx.stores = [] ∧ (conditions 3 0 0).dieResolving 0 = false ∧ (conditions 3 0 0).condOf 3 = none ∧ (∀ j < 3, (conditions 3 0 0).condOf j ≠ none) ∧
      (conditions 0 0 0).condOf 0 = none ∧ ∀ j < 256, (conditions 256 0 0).condOf j ≠ none) ∧
    (lastCond.hasS 1 255 ∧ lastCond.hasP 1 1 ∧ (255 : Word).toNat < 256 ∧ lastCond.resolving lastCond.cur.ctx = none ∧ lastCond.dieResolving 0 = false ∧
      task.trec.conds = [] ∧ lastCond.released ∧ lastCond.condOf (255 : Word).toNat = some cond ∧ cond.pasid = task.pasid ∧ cond.launch = task.launch ∧
      ∀ pl ∈ lastCond.places, BitVec.ofNat 8 (255 : Word).toNat ∉ pl.trec.conds) ∧
    (∀ pl ∈ (queuedConds 1 [queued 8 [0, 1]]).places, (0 : BitVec 8) ∈ pl.trec.conds → ∃ c' ∈ pl.trec.conds, c' ≠ 0) ∧
    (let s := queuedConds 0 [queued 8 [0]]
     (s.cores.map Prod.fst).Nodup ∧ dieOfCore 1 = dieOf s.cur.ctx ∧ Place.queued 1 (queued 8 [0]) ∈ s.places ∧ (0 : BitVec 8) ∈ (queued 8 [0]).trec.conds ∧
      (∀ pl ∈ s.places, (0 : BitVec 8) ∈ pl.trec.conds ∨ pl.uid = 8 → pl = .queued 1 (queued 8 [0])) ∧ ∀ e ∈ (s.die (dieOf s.cur.ctx)).conds, e.2.creator ≠ 8) ∧
    (dieOf 1 = dieOf buffered.cur.ctx ∧ (buffered.ctx 1).task = some writer ∧ writer.dead = false ∧ writer.trec.conds = [0] ∧ (∀ b, Strike.commit writer.uid b ∉ buffered.strikes) ∧
      buffered.commitParked 1 writer.uid = false ∧
      ∀ pl ∈ buffered.places, (0 : BitVec 8) ∈ pl.trec.conds ∨ pl.uid = writer.uid → pl = .held 1 writer) ∧
    (256 ≤ (256 : Word).toNat ∧ (conditions 1 256 0).hasS 1 256 ∧ (conditions 1 1 0).condOf ((1 : Word).toNat % 256) = none ∧
      ∃ k, (conditions 1 0 0).condOf ((0 : Word).toNat % 256) = some k ∧ k.launch ≠ 1) := by
  dsimp only
  simp only [State.hasS, State.hasP, State.released]
  and_intros <;> decide +kernel

theorem fits_of (lo n a m : Nat) (h0 : 0 < m) (h1 : m < n) (h2 : lo ≤ a) (h3 : a + m ≤ n + lo) :
    (([lo, a + m].filter fun u => decide (lo ≤ u) && decide (u + 1 ≤ n + lo) && unitsFree [(a, m)] u 1).isEmpty) = false := by
  rw [Bool.eq_false_iff]
  simp only [ne_eq, List.isEmpty_iff, List.filter_eq_nil_iff, List.mem_cons, List.not_mem_nil, or_false, unitsFree, List.all_cons, List.all_nil, Bool.and_true,
    Bool.and_eq_true, Bool.or_eq_true, decide_eq_true_eq, forall_eq_or_imp, forall_eq, not_and]
  omega

theorem fits_none (lo n : Nat) (l : List Nat) (used : List (Nat × Nat)) (h0 : 0 < n) (h : (lo, n) ∈ used) :
    ((l.filter fun u => decide (lo ≤ u) && decide (u + 1 ≤ n + lo) && unitsFree used u 1).isEmpty) = true := by
  rw [List.isEmpty_iff, List.filter_eq_nil_iff]
  intro u _ k
  simp only [Bool.and_eq_true, decide_eq_true_eq, unitsFree, List.all_eq_true, Bool.or_eq_true] at k
  have := k.2 _ h
  omega

theorem freeRange_isSome (s : State) (d : Nat) (keep : Obj → Bool) : (s.freeRange d 1 keep).isSome = !((halfUnits * d :: (s.usedUnits d keep).map fun r => r.1 + r.2).filter fun u =>
    decide (halfUnits * d ≤ u) && decide (u + 1 ≤ halfUnits + halfUnits * d) && unitsFree (s.usedUnits d keep) u 1).isEmpty := by
  unfold State.freeRange
  simp only []
  generalize List.filter _ _ = l
  cases l <;> rfl

/-- The reserved range takes more than nothing and less than the die's half. -/
theorem reserved_units (d : Nat) : 0 < (reservedRange d).2 ∧ (reservedRange d).2 < halfUnits := by
  have h : tableUnits + 1 < halfUnits := by decide +kernel
  have h2 : Config.recordUnits d % (halfUnits - tableUnits - 1) < halfUnits - tableUnits - 1 := Nat.mod_lt _ (by omega)
  unfold reservedRange recordUnits
  dsimp only
  generalize halfUnits = n at *
  generalize tableUnits = m at *
  omega

theorem room_of (s : State) (d : Nat) (keep : Obj → Bool) (h : s.usedUnits d keep = [reservedRange d]) : (s.freeRange d 1 keep).isSome = true := by
  rw [freeRange_isSome, h]
  have h1 := reserved_units d
  have h2 : Config.reservedStart d % (halfUnits - (reservedRange d).2 + 1) < halfUnits - (reservedRange d).2 + 1 := Nat.mod_lt _ (Nat.succ_pos _)
  have h3 : (reservedRange d).1 = halfUnits * d + Config.reservedStart d % (halfUnits - (reservedRange d).2 + 1) := rfl
  have := fits_of (halfUnits * d) halfUnits (reservedRange d).1 (reservedRange d).2 h1.1 h1.2 (by omega) (by
    generalize halfUnits = n at *
    omega)
  rw [Bool.not_eq_true']
  exact this

theorem noRoom_of (s : State) (d : Nat) (keep : Obj → Bool) (h : (halfUnits * d, halfUnits) ∈ s.usedUnits d keep) : (s.freeRange d 1 keep).isSome = false := by
  rw [freeRange_isSome, fits_none _ _ _ _ (Nat.lt_trans (reserved_units 0).1 (reserved_units 0).2) h]
  rfl

/-- A die whose whole pool is one object. -/
def wholeHalf (live : Bool) : Obj := { obj .fixed none with live := live, recl := false, len := 4096 * halfUnits }

/-- 4096 bytes, a reclaimable Fold of F32ADD with priority 15. -/
def foldDesc : Word := 0xF800000003

theorem witness_Halloc : ((regs 4096 foldDesc).hasS 1 4096 ∧ (regs 4096 foldDesc).hasS 2 foldDesc ∧ hallocCheck 4096 foldDesc = .ok () ∧ (regs 4096 foldDesc).cx.speculative = false ∧
      (regs 4096 foldDesc).cx.stores = [] ∧ descRole foldDesc = .fold 0 0 ∧ (regs 4096 foldDesc).roomNow 0 1 = true) ∧
    (∀ live : Bool, (objects 4096 foldDesc (wholeHalf live)).hasS 1 4096 ∧ (objects 4096 foldDesc (wholeHalf live)).hasS 2 foldDesc ∧
      (objects 4096 foldDesc (wholeHalf live)).cx.speculative = false ∧ (objects 4096 foldDesc (wholeHalf live)).cx.stores = [] ∧
      (objects 4096 foldDesc (wholeHalf live)).candidates 0 = [] ∧ (objects 4096 foldDesc (wholeHalf live)).roomNow 0 1 = false ∧
      (objects 4096 foldDesc (wholeHalf live)).roomLater 0 1 = !live) ∧
    (let u := waits .reclaim (.halloc 3 1 2 1) (fun x => { x with s := [(1, Cell.of 4096), (2, Cell.of foldDesc)] }) [4096, foldDesc]
     (u.ctx 0).waiting .reclaim = [(bundleOf (queuedSyl (.halloc 3 1 2 1) (some .reclaim) [4096, foldDesc]), queuedSyl (.halloc 3 1 2 1) (some .reclaim) [4096, foldDesc])] ∧
      (issuing u .reclaim (.halloc 3 1 2 1) [4096, foldDesc]).hasS 1 4096 ∧ (issuing u .reclaim (.halloc 3 1 2 1) [4096, foldDesc]).hasS 2 foldDesc) := by
  refine ⟨⟨?_, ?_, by decide +kernel, by decide +kernel, rfl, by decide +kernel, ?_⟩, fun live => ⟨?_, ?_, by revert live; decide +kernel, rfl, by revert live; decide +kernel, ?_, ?_⟩,
    by dsimp only; simp only [State.hasS]; decide +kernel⟩
  · unfold State.hasS; decide +kernel
  · unfold State.hasS; decide +kernel
  · have := room_of (regs 4096 foldDesc) 0 (fun _ => true) rfl
    unfold State.roomNow
    rw [this]
    decide +kernel
  · unfold State.hasS; revert live; decide +kernel
  · unfold State.hasS; revert live; decide +kernel
  · have := noRoom_of (objects 4096 foldDesc (wholeHalf live)) 0 (fun _ => true) (by
      have : (objects 4096 foldDesc (wholeHalf live)).usedUnits 0 (fun _ => true) = reservedRange 0 :: [(0, halfUnits)] := by cases live <;> rfl
      rw [this]; simp)
    unfold State.roomNow
    rw [this]
    exact Bool.and_false _
  · cases live
    · have := room_of (objects 4096 foldDesc (wholeHalf false)) 0 (·.live) rfl
      unfold State.roomLater
      rw [this]
      decide +kernel
    · have := noRoom_of (objects 4096 foldDesc (wholeHalf true)) 0 (·.live) (by
        have : (objects 4096 foldDesc (wholeHalf true)).usedUnits 0 (·.live) = reservedRange 0 :: [(0, halfUnits)] := rfl
        rw [this]; simp)
      unfold State.roomLater
      rw [this]
      exact Bool.and_false _

/-- Objects that HDROP leaves alive and that it destroys, one with no pin, one with the most pins that HPIN takes. -/
theorem witness_Objects : (∀ k ∈ [(2, true), (1, true), (1, false), (0, true), (2 ^ 32 - 2, true)], let o : Obj := { obj .own none with scount := BitVec.ofNat 32 k.1, recl := k.2 }
      let s := objects handle 0 o
      s.hasS 1 handle ∧ s.cx.speculative = false ∧ s.released ∧ s.cx.stores = [] ∧ s.moves = [] ∧ s.requests = [] ∧ s.obj 0 0 = some o ∧ o.live = true ∧ handle = handleOf 0 0 o ∧
        s.foreignOwn s.cx.uid o = none) ∧
    (∀ v : Word, v = 0x5000000000000000 ∨ v = 0x5FFFFF0000000000 → (objects v 0 (obj .own none)).hasS 1 v) ∧
    0x5000000000000000 = handleOf 0 0 (obj .own none) + BitVec.ofNat 64 (2 ^ 60) ∧ (BitVec.allOnes 20 : BitVec 20) ≠ (obj .own none).gen ∧
    0x5FFFFF0000000000 = handleOf 0 0 { obj .own none with gen := BitVec.allOnes 20 } + BitVec.ofNat 64 (2 ^ 60) ∧
    (let o : Obj := { obj .own none with live := false }
     (objects 0 0 o).obj 0 0 = some o ∧ o.live = false ∧ o.inflight = 0) ∧
    (let s := (objects 0 0 { obj .own none with scount := 0 }).modDie 0 fun d => { d with low := 2 ^ 50 }
     s.watermarkDue 0 = true ∧ s.requests = [] ∧ ((s.die 0).objs.map Prod.fst).Nodup ∧ ∀ e ∈ (s.die 0).objs, e.1 < 2 ^ 23) := by
  dsimp only
  simp only [State.released, State.hasS]
  refine ⟨by decide +kernel, ?_, by decide +kernel, by decide +kernel, by decide +kernel, by decide +kernel, ?_, rfl, by decide +kernel, by decide +kernel⟩
  · rintro v (rfl | rfl) <;> decide +kernel
  · generalize h : ((objects 0 0 { obj .own none with scount := 0 }).modDie 0 fun d => { d with low := 2 ^ 50 }) = s
    have h1 : (s.returning 0).isNone = true := by rw [← h]; decide +kernel
    have h2 : (s.candidates 0).isEmpty = false := by rw [← h]; decide +kernel
    have h3 : (s.die 0).low = 2 ^ 50 := by rw [← h]; decide +kernel
    have h4 : s.freeBytesOf 0 < 2 ^ 50 := Nat.lt_of_le_of_lt (Nat.mul_le_mul_left 4096 (Nat.sub_le _ _)) (by decide +kernel)
    unfold State.watermarkDue
    rw [h1, h2, h3, decide_eq_true h4]
    rfl

/-- A RECAST of the last 8 bytes of an object to a Flow of 4-byte elements; one at its ordering point. -/
def recastSt : RecastSt := ⟨0, 0, 0, 0, true, 4088, 8, .flow 4, false, 0, [], [], 1⟩
def recasting : State :=
  { waits .recast (.recast 1 2 3) id with recasts := [recastSt] }.modDie 0 fun d => { d with objs := [(0, { obj .fixed none with inflight := 1, closed := [(4088, 8, 0)] })] }

theorem witness_Recast : (let s := (objects handle 8 (obj .fixed none)).modCtx 0 fun x => { x with s := x.s ++ [(3, Cell.of 0x00000FF800000201)] }
      s.hasS 1 handle ∧ s.hasS 2 8 ∧ s.hasS 3 0x00000FF800000201 ∧ s.cx.speculative = false ∧ s.cx.stores = [] ∧ s.obj 0 0 = some (obj .fixed none) ∧
        (obj .fixed none).live = true ∧ handle = handleOf 0 0 (obj .fixed none) ∧ descOk 0x00000FF800000201 = true ∧
        bitsAt 0x00000FF800000201 24 8 * 2 ^ 32 + bitsAt 0x00000FF800000201 32 32 = 4088 ∧ (obj .fixed none).recastCheck s.cx.uid 4088 8 0x00000FF800000201 handle = .ok () ∧
        (obj .fixed none).isClosed 4088 8 = false) ∧
    (let o : Obj := { obj .fixed none with inflight := 1, closed := [(4088, 8, 0)] }
     recasting.recasts.find? (fun e => e.ctx = 0) = some recastSt ∧ recasting.drained recastSt = true ∧
      (recasting.ctx 0).waiting .recast = [(bundleOf (queuedSyl (.recast 1 2 3) (some .recast)), queuedSyl (.recast 1 2 3) (some .recast))] ∧
      recasting.obj 0 0 = some o ∧ o.gen = recastSt.gen ∧ (o.segs.map Seg.stop).Pairwise (· < ·) ∧
      recastSt.start + recastSt.len ≤ o.len ∧ (o.segs.getLast?).map Seg.stop = some o.len ∧ 0 < recastSt.len ∧ recastSt.role.isFlow = true) := by
  dsimp only
  simp only [State.hasS]
  and_intros <;> first | rfl | decide +kernel

/-- A task whose save area, in the second 8 MiB of host memory, lies in the first gigabyte, which its translation cache maps to itself; its next
word is w, and a syllable at entry 1 is in issue. -/
def areaBase : Word := 0x800000
def gigabyte : TEntry := ⟨0, 2, 0, 0, true, true, false⟩
def coded (w : Nat) (sstat : Word) (f : Ctx → Ctx) : State :=
  let s := State.reset.withFetchWord 32 w
  ({ s with cur := { s.cur with entry := 1 } }.modCtx 0 fun x => f { x with csr := [(csrTVEC, Cell.of 0x1000), (csrTREC, Cell.of areaBase), (csrSSTAT, Cell.of sstat)] }).modCore 0
    fun k => { k with tlb := [gigabyte] }
def areas (sstat : Word) (f : Ctx → Ctx) : State := coded 0x80000000 sstat f

theorem gigabyte_maps (p : Nat) (h : p < 262144) : gigabyte.maps 0 (p * 4096) = true ∧ gigabyte.target + p * 4096 % pageBytes gigabyte.size = 4096 * p := by
  have h2 : p * 4096 / pageBytes 2 = 0 := Nat.div_eq_of_lt (by show p * 4096 < 1073741824; omega)
  have h3 : p * 4096 % pageBytes 2 = p * 4096 := Nat.mod_eq_of_lt (by show p * 4096 < 1073741824; omega)
  unfold TEntry.maps gigabyte
  simp only [h2, h3]
  exact ⟨rfl, by omega⟩

theorem firstPages (p : Nat) (write : Bool) (h : p < 262144) : findPage [] [gigabyte] 0 p write = some (.at (4096 * p) true true) := by
  obtain ⟨h1, h2⟩ := gigabyte_maps p h
  unfold findPage
  simp only [List.find?_nil, List.find?_cons, h1, Bool.true_and]
  cases write <;> exact congrArg (fun n => some (XRes.at n true true)) h2

theorem saveReady_of (s : State) (h : (s.core 0).tlb = [gigabyte] ∧ (s.ctx 0).pasid = 0 ∧ (s.ctx 0).pages = [] ∧ (s.ctx 0).csrCell csrTREC = Cell.of areaBase ∧
      (s.ctx 0).csrCell csrTVEC = Cell.of 0x1000 ∧ (s.ctx 0).stores = [] ∧ (s.ctx 0).inflightRecord = [] ∧ (s.ctx 0).restore = none ∧
      (s.ctx 0).waitsFor .recast = false ∧ (s.ctx 0).late = [] ∧ s.committing (s.ctx 0).uid = false ∧ s.moves = [] ∧ s.msends = [] ∧ s.eoss = [] ∧ s.dlogs = []) :
    SaveReady s 0 areaBase 0x1000 (4096 * ·) := by
  obtain ⟨h1, h2, h3, h4, h5, h6, h7, h8, h9, h10, h11, h12, h13, h14, h15⟩ := h
  refine ⟨h4, h5, by decide, by decide, h3, h6, h7, h8, h9, h10, h11, by simp [h12], by simp [h13], by simp [h14], h15, fun p hp => ⟨true, true, ?_⟩, fun p hp => ?_⟩
  · unfold State.pageOf
    rw [h2, h3, show s.core (coreOf 0) = s.core 0 from rfl, h1]
    exact firstPages _ _ (by show 8388608 / 4096 + p < 262144; omega)
  · dsimp only [areaBase]
    refine ⟨by show 4096 * (8388608 / 4096 + p) + 4096 ≤ 2 ^ 64; omega, fun q hq hn => ?_⟩
    show 4096 * (8388608 / 4096 + p) + 4096 ≤ 4096 * (8388608 / 4096 + q) ∨ 4096 * (8388608 / 4096 + q) + 4096 ≤ 4096 * (8388608 / 4096 + p)
    omega

theorem trapReady_of (s : State) (f : FaultInfo) (tk : Task) (h : (s.core 0).tlb = [gigabyte] ∧ (s.ctx 0).pasid = 0 ∧ (s.ctx 0).pages = [] ∧
      (s.ctx 0).csrCell csrTREC = Cell.of areaBase ∧ (s.ctx 0).csrCell csrTVEC = Cell.of 0x1000 ∧ (s.ctx 0).stores = [] ∧ (s.ctx 0).inflightRecord = [] ∧
      (s.ctx 0).restore = none ∧ (s.ctx 0).waitsFor .recast = false ∧ (s.ctx 0).late = [] ∧ s.committing (s.ctx 0).uid = false ∧ s.moves = [] ∧ s.msends = [] ∧
      s.eoss = [] ∧ s.dlogs = [])
    (h2 : (s.ctx 0).task = some tk ∧ tk.fault = none ∧ tk.dead = false ∧ tk.trec.conds = [] ∧ (s.ctx 0).supervisor = false ∧ (s.ctx 0).draining f = false) :
    TrapReady s 0 f tk areaBase 0x1000 (4096 * ·) := ⟨saveReady_of s h, h2⟩

/-- A context with one syllable in the queues, of S0 at entry 1, before entry 2. -/
def queuedOne (i : Instr) (x : Ctx) : Ctx := { x with queue := [bundleOf (queuedSyl i none)], entry := 2, pc := 4 }

/-- A precise fault of entry 1, an imprecise one, and one that kills, in user and in supervisor mode; a stop with a syllable left in S0. -/
def faultAt1 : FaultInfo := ⟨0x02, 1, 0, 0, 0, 0, 0, 0, 1, 0, false, false⟩
theorem witness_Faults : TrapReady (areas 0 id) 0 faultAt1 task areaBase 0x1000 (4096 * ·) ∧ TrapReady (areas 0 (queuedOne (.ldf 3 1 0))) 0 faultAt1 task areaBase 0x1000 (4096 * ·) ∧
    TrapReady (areas 0 (queuedOne (.ldf 3 1 0))) 0 { faultAt1 with cls := 0x20, imprec := true } task areaBase 0x1000 (4096 * ·) ∧ (0x02 : BitVec 8) ≠ 0x24 ∧ (0x02 : BitVec 8) ≠ 0x26 ∧
    (∀ m ∈ [(1, (0x02 : BitVec 8)), (0, (0x24 : BitVec 8))], SaveReady (areas m.1 id) 0 areaBase 0x1000 (4096 * ·) ∧ ((areas m.1 id).ctx 0).task = some task ∧ task.fault = none ∧
      task.dead = false ∧ task.effects = [] ∧ ((areas m.1 id).ctx 0).draining { faultAt1 with cls := m.2 } = false ∧ (((areas m.1 id).ctx 0).supervisor = true ∨ m.2 = 0x24)) ∧
    (let x := (areas 0 (queuedOne (.ldf 3 1 0))).ctx 0
     let d := bundleOf (queuedSyl (.ldf 3 1 0) none)
     x.nextOf .s0 = some d ∧ x.nextOf .v = none ∧ d ∈ x.queue ∧ (x.queue.map Disp.entry).Pairwise (· < ·) ∧ d.entry ≤ x.entry ∧
      (∀ sl : Slot, d.entry ≤ Sparse.get 0 (x.stop 2 0 none).front sl.num) ∧ ∃ sl : Slot, Sparse.get 0 (x.stop 2 0 none).front sl.num = d.entry) ∧
    ((areas 0 id).ctx 0).queue = [] := by
  refine ⟨trapReady_of _ _ _ (by decide +kernel) (by decide +kernel), trapReady_of _ _ _ (by decide +kernel) (by decide +kernel),
    trapReady_of _ _ _ (by decide +kernel) (by decide +kernel), by decide, by decide, ?_, ?_, rfl⟩
  · intro m h
    simp only [List.mem_cons, List.not_mem_nil, or_false] at h
    rcases h with rfl | rfl <;> exact ⟨saveReady_of _ (by decide +kernel), by decide +kernel⟩
  · dsimp only
    refine ⟨by decide +kernel, by decide +kernel, by decide +kernel, by decide +kernel, by decide +kernel, fun sl => ?_, .s0, by decide +kernel⟩
    cases sl <;> decide +kernel

/-- Registers 5 and 5, 5 and 7, and a check that has failed on 5 and 7 at this bundle or another. -/
def checked (v u : Word) (pc : Word) : State := (regs v u).modCtx 0 fun x => { x with chkv := true, chka := 5, chkb := 7, chkpc := pc }

/-- A bundle that owes an MNOP to an engine; a task with a budget of one entry at its third. -/
def owing (mb : Bool) : State := areas 0 fun x => if mb then { x with fmtB := { x.fmtB with owed := some 1 } } else { x with fmtA := { x.fmtA with owed := some 1 } }
def spent : Task := { task with trec := { task.trec with budget := 1 } }
def overrunning : State := areas 0 fun x => { x with task := some spent, entry := 3 }
def addHead : Queued := ⟨.s0, 0, ⟨true, false, .add 0 0 0 0 0⟩, none, none, []⟩

theorem witness_Traps :
    (let s := areas 0 (queuedOne (.trap 9))
     TrapReady s s.cur.ctx (s.softFault 0x0E 9) task areaBase 0x1000 (4096 * ·) ∧ TrapReady s s.cur.ctx (s.softFault 0x0F 9) task areaBase 0x1000 (4096 * ·)) ∧
    ((regs 5 5).hasS 1 5 ∧ (regs 5 5).hasS 2 5 ∧ (regs 5 7).hasS 2 7 ∧ (regs 5 5).cx.chkv = false ∧ (5 : Word) ≠ 7) ∧
    ((checked 5 5 0).hasS 1 5 ∧ (checked 5 5 0).hasS 2 5 ∧ (checked 5 5 0).cx.chkv = true ∧ (checked 5 5 0).cur.pc = (checked 5 5 0).cx.chkpc ∧ (5 : Word) = (checked 5 5 0).cx.chka ∧
      (checked 5 5 4).cur.pc ≠ (checked 5 5 4).cx.chkpc ∧ (checked 9 9 0).hasS 1 9 ∧ 9 ≠ (checked 9 9 0).cx.chka ∧ 9 ≠ (checked 9 9 0).cx.chkb) ∧
    (let s := areas 0 fun x => { queuedOne (.chkeq 1 2) x with s := [(1, Cell.of 5), (2, Cell.of 7)] }
     s.hasS 1 5 ∧ s.hasS 2 7 ∧ s.cx.chkv = false ∧ TrapReady s s.cur.ctx { s.softFault 0x0C 0 with det0 := 5, det1 := 7 } task areaBase 0x1000 (4096 * ·)) ∧
    (let s := coded 0x86800000 0 id
     s.atBundle 0 ∧ ∃ b, s.fetchBundle 0 = .ok (.error b) ∧ TrapReady s 0 (s.bundleFault 0 0x01 0 b.op b.slot b.pos) task areaBase 0x1000 (4096 * ·)) ∧
    (overrunning.atBundle 0 ∧ (overrunning.ctx 0).task = some spent ∧ (overrunning.ctx 0).supervisor = false ∧ overrunning.overruns 0 spent ∧ overrunning.owesNone 0 ∧
      TrapReady overrunning 0 (overrunning.bundleFault 0 0x0A 0 0 0 0) spent areaBase 0x1000 (4096 * ·)) ∧
    (∀ mb : Bool, let slot := if mb then 4 else 3
      (owing mb).atBundle 0 ∧ (owing mb).owes 0 [addHead] slot ∧
        TrapReady (owing mb) 0 ((owing mb).bundleFault 0 0x09 3 0x07 slot 0) task areaBase 0x1000 (4096 * ·)) := by
  dsimp only
  simp only [State.hasS]
  have none' (x : Option LoopSt) (h : x = none) (l : LoopSt) (k : x = some l) : l.started = true := by rw [h] at k; cases k
  refine ⟨⟨trapReady_of _ _ _ (by decide +kernel) (by decide +kernel), trapReady_of _ _ _ (by decide +kernel) (by decide +kernel)⟩, by decide +kernel, by decide +kernel,
    ⟨by decide +kernel, by decide +kernel, by decide +kernel, trapReady_of _ _ _ (by decide +kernel) (by decide +kernel)⟩,
    ⟨⟨by decide +kernel, by decide +kernel, none' _ rfl⟩, ⟨0x34, 0, 0⟩, by decide +kernel, trapReady_of _ _ _ (by decide +kernel) (by decide +kernel)⟩,
    ⟨⟨by decide +kernel, by decide +kernel, none' _ rfl⟩, by decide +kernel, by decide +kernel, by unfold State.overruns; decide +kernel,
      ⟨[addHead], by decide +kernel, by decide +kernel, by decide +kernel⟩, trapReady_of _ _ _ (by decide +kernel) (by decide +kernel)⟩, ?_⟩
  intro mb
  cases mb <;> exact ⟨⟨by decide +kernel, by decide +kernel, none' _ rfl⟩, ⟨by decide +kernel, by decide +kernel, by decide +kernel⟩,
    trapReady_of _ _ _ (by decide +kernel) (by decide +kernel)⟩

/-- What a trap kept, with nothing in progress, of a task with a move in flight. -/
def kept : UserSave := ⟨4, [], [], [], [], [], [], [], 0, 0, 8⟩
def handling (cause : Word) : State := areas 1 fun x => { x with csr := x.csr ++ [(csrEPC, Cell.of 6), (csrTCAUSE, Cell.of cause)], saved := some kept }

theorem areaReadable_of (s : State) (q : Nat) (h : (s.core q).tlb = [gigabyte]) : s.areaReadable q 0 areaBase (4096 * ·) :=
  ⟨by decide, by decide, fun p hp => ⟨true, true, by rw [h]; exact firstPages _ _ (by show 8388608 / 4096 + p < 262144; omega)⟩⟩

/-- The same with a one in a bit of the saved CTL that must be zero. -/
def spoiled (s : State) : State := { s with mem := writeNat s.mem 0x800280 8 (2 ^ 63) }

/-- A log of 64 entries with 63 in it, and one dirty page. -/
def dirty : TEntry := ⟨0, 0, 5, 5 * 4096, true, true, true⟩
def dlog : DLog := ⟨0, 0x10000, 64⟩
def logged : State :=
  { (areas 1 id).modCore 0 fun k => { k with tlb := [dirty] } with dlogs := [(0, dlog)], mem := writeNat [] (ioPA 0 0x10000) 4 63 }

/-- A task that a pre-emption has saved from context 1. -/
def savedTask : Task := { task with uid := 9 }
def savedSt : SavedTask := ⟨{ Ctx.idle with task := some savedTask, csr := [(csrTREC, Cell.of areaBase)] }, 1, none, false, []⟩
def saving : State := { areas 0 id with saved := [savedSt] }

/-- A context with a loop, an arrival, a WAITB and an MFMT in its rows. -/
def rowed : Ctx := { Ctx.idle with loop := some (looping 3 1), arrival := some (barAt, 2 ^ 29 - 1), waitP0 := some (2 ^ 29 - 1), fmtA := ⟨(.int8, .d8), (.fp32, .fp32), 7, some 5, some 8⟩ }

/-- A context whose syllable waits on a tagged word; one with an imprecise fault that is not detected. -/
def blockedSt : State := areas 0 fun x => { queuedOne (.ldf 3 1 0) x with queue := [bundleOf (queuedSyl (.ldf 3 1 0) (some .tagged))] }
def lateInfo : FaultInfo := ⟨0x20, 1, 0, areaBase, 0, 0, 0, 0, 1, 0, true, true⟩
def lateSt : State := areas 0 fun x => { x with late := [(17, lateInfo)] }

theorem witness_Returns : (∀ cause : Word, cause = 0x200 ∨ cause = 0 → (handling cause).cx.task = some task ∧ (handling cause).cx.supervisor = true ∧ (handling cause).cx.saved = some kept ∧
      (handling cause).moves = [] ∧ (handling cause).msends = [] ∧ (handling cause).eoss = [] ∧ (handling cause).cx.stores = [] ∧ (handling cause).cx.pages = [] ∧
      (handling cause).hasCsr csrTREC areaBase ∧ (handling cause).hasCsr csrEPC 6 ∧ (handling cause).hasCsr csrSSTAT 1 ∧ (handling cause).hasCsr csrTCAUSE cause ∧
      (handling cause).areaReadable (coreOf (handling cause).cur.ctx) task.pasid areaBase (4096 * ·)) ∧
    (zeroFields ((handling 0).areaBytes areaBase (4096 * ·)) 0 = true ∧ zeroFields ((spoiled (handling 0)).areaBytes areaBase (4096 * ·)) 0 = false ∧
      zeroFields (saving.areaBytes areaBase (4096 * ·)) 0 = true ∧ zeroFields ((spoiled saving).areaBytes areaBase (4096 * ·)) 0 = false ∧ savedTask.dead = false) ∧
    (∀ m ∈ { handling 0 with moves := [move .tmov 3] }.moves, m.ctx = 0 → m.id < kept.firstId) ∧ BitVec.ofNat 64 ((6 : Word).toNat / 4 * 4) = kept.pc ∧
    (0x200 : Word).getLsbD 9 = true ∧ (0 : Word).getLsbD 9 = false ∧ task.dead = false ∧ FitsRows rowed ∧
    ((base.core 0).running = base.cur.ctx % 4 ∧
      (let s := (base.modCtx 3 fun x => { x with task := some savedTask }).modCore 0 fun k => { k with seek := true }
       (s.core 0).running < 4 ∧ (s.core 0).seek = true ∧ (∀ e, e / 4 = 0 → s.lingers e = false) ∧
        ([1, 2, 3, 4].map fun i => 4 * 0 + ((s.core 0).running + i) % 4).find? s.ready = some 3)) ∧
    (logged.cx.task = some task ∧ logged.cx.supervisor = true ∧ task.trec.conds = [] ∧ logged.cx.stores = [] ∧ logged.released ∧ logged.oneDirty task.pasid dlog dirty ∧
      (areas 1 id).dlogs.find? (fun l => l.1 = task.pasid.toNat) = none) ∧
    ((areas 1 id).preemptPoint 0 = false ∧ (areas 0 id).preemptPoint 0 = true ∧ ((areas 0 id).ctx 0).loop = none ∧ SaveReady (areas 0 id) 0 areaBase 0x1000 (4096 * ·) ∧
      blockedSt.preemptPoint 0 = true ∧ (blockedSt.ctx 0).loop = none ∧ SaveReady blockedSt 0 areaBase 0x1000 (4096 * ·)) ∧
    ((saving.ctx 1).task = none ∧ (saving.ctx 1).restore = none ∧ saving.saved.find? (fun v => v.ctx.uid = savedTask.uid) = some savedSt ∧ saving.canResume savedSt savedTask 1 = true ∧
      savedSt.fault = none ∧ savedTask.fault = none ∧
      savedSt.ctx.csrCell csrTREC = Cell.of areaBase ∧ savedSt.ctx.inflightRecord = [] ∧ savedSt.ctx.stores = [] ∧ (∀ e ∈ savedSt.ctx.p, e.2.pend = []) ∧
      saving.areaReadable (coreOf 1) savedTask.pasid areaBase (4096 * ·) ∧ ∀ x, (saving.ctx x).stores = []) ∧
    (let u := lateSt.modCtx 0 fun x => { x with late := [] }
     (lateSt.ctx 0).late.find? (fun k => k.2.cls = 0x20 && k.2.sub = 1 && k.2.det0 = areaBase) = some (17, lateInfo) ∧
      TrapReady u 0 lateInfo task areaBase 0x1000 (4096 * ·) ∧ lateInfo.imprec = true ∧
      ∀ k ∈ (lateSt.ctx 0).late, k.2.cls ≠ 0x21 ∨ k.2.sub ≠ 1 ∨ k.2.det0 ≠ areaBase) := by
  refine ⟨?_, by decide +kernel, by decide +kernel, by decide, by decide, by decide, rfl, ?_, ⟨by decide +kernel, by decide +kernel, by decide +kernel, fun e h => ?_, by decide +kernel⟩,
    ⟨rfl, by decide +kernel, rfl, rfl, by unfold State.released; decide +kernel, ?_, rfl⟩, ?_, ?_, ?_⟩
  · rintro cause (rfl | rfl) <;>
      refine ⟨rfl, by decide +kernel, rfl, rfl, rfl, rfl, rfl, rfl, rfl, rfl, rfl, rfl, areaReadable_of _ _ (by decide +kernel)⟩
  · refine ⟨fun l h => ?_, by decide, fun p h => ?_, fun p h => ?_, ?_, by decide⟩
    · cases h; decide
    · cases h; decide
    · cases h; decide
    · intro k h
      simp only [List.mem_cons, List.not_mem_nil, or_false] at h
      rcases h with rfl | rfl
      · exact ⟨by decide, fun n h => by cases h; decide, fun n h => by cases h; decide⟩
      · exact ⟨by decide, fun n h => (by cases h), fun n h => (by cases h)⟩
  · have : e = 0 ∨ e = 1 ∨ e = 2 ∨ e = 3 := by omega
    rcases this with rfl | rfl | rfl | rfl <;> decide +kernel
  · unfold State.oneDirty; decide +kernel
  · exact ⟨by decide +kernel, by decide +kernel, rfl, saveReady_of _ (by decide +kernel), by decide +kernel, rfl, saveReady_of _ (by decide +kernel)⟩
  · exact ⟨by decide +kernel, by decide +kernel, rfl, by decide +kernel, rfl, rfl, rfl, by decide +kernel, rfl, fun _ h => (List.not_mem_nil h).elim,
      areaReadable_of _ _ (by decide +kernel), fun x => by cases x <;> rfl⟩
  · exact ⟨by decide +kernel, trapReady_of _ _ _ (by decide +kernel) (by decide +kernel), rfl, by decide +kernel⟩

/-- A machine with one translation request, by a context or for a parked store, or with a page request. -/
def asking (w : Bool) : State := (base.modCore 0 fun k => { k with tlb := [] }).modDie 0 fun d => { d with ats := [⟨0, 0x100, w, [0], []⟩] }
def parked : Parked := ⟨0, 0x100, 0, 1, true, [(0x100008, 7)], .bytes, false, some 1, 3⟩
def replaying : State := (base.modCore 0 fun k => { k with replay := [parked] }).modDie 0 fun d => { d with ats := [⟨0, 0x100, true, [], []⟩] }
def paging : State := (base.modCore 0 fun k => { k with replay := [{ parked with ready := false }] }).modDie 0 fun d => { d with pri := [⟨0, 0x100⟩] }

/-- The sizes of R398. -/
def pageSizes : List (BitVec 2) := [0, 1, 2]

theorem witness_Translation : (∀ w : Bool, ((asking w).die 0).ats.find? (fun r => r.pasid = 0 && r.page = 0x100 && r.write = w) = some ⟨0, 0x100, w, [0], []⟩ ∧
      ((asking w).ctx 0).task = some task ∧ task.pasid = 0 ∧ ((asking w).core (coreOf 0)).tlb = [] ∧ (∀ k ∈ (asking w).cores, k.2.replay = []) ∧ (asking w).pageOf 0 0x100 w = none ∧
      ((asking w).die 0).ats.any (fun r => r.pasid = 0 && r.page = 0x100 && r.write = w) = true) ∧
    (∀ z ∈ pageSizes, z ≠ 3 ∧ 0xFFFFFFFFFFFFFFFF / pageBytes z * pageBytes z + pageBytes z ≤ 2 ^ 64 ∧
      backed ((2 ^ 64 + 2 ^ 41) / pageBytes z * pageBytes z) (pageBytes z) = false) ∧
    ((replaying.die 0).ats.find? (fun r => r.pasid = 0 && r.page = 0x100 && r.write = true) = some ⟨0, 0x100, true, [], []⟩ ∧ (replaying.core 0).replay = [parked] ∧ parked.ready = true ∧
      parked.pasid = 0 ∧ parked.page = 0x100 ∧ parked.kind = .bytes ∧ (∀ k ∈ replaying.cores, k.1 ≠ 0 → k.2.replay = []) ∧ (replaying.cores.map Prod.fst).Nodup ∧ replaying.dlogs = []) ∧
    (⟨0, 0x100⟩ ∈ (paging.die 0).pri ∧ { parked with ready := false } ∈ (paging.core 0).replay ∧ (paging.core 0).replay = [{ parked with ready := false }] ∧
      (paging.die 0).ats.length < 256 ∧
      (∀ k ∈ paging.cores, k.1 ≠ 0 → k.2.replay = []) ∧ (paging.cores.map Prod.fst).Nodup ∧ paging.moves = [] ∧ parked.commit = false ∧ (paging.ctx parked.ctx).uid = parked.uid) ∧
    ((∃ m ∈ { base with eoss := [{ token with vwrite := [5] }] }.eoss, m.pasid = 5 ∧ ∃ p ∈ m.vwrite, pageIn 0x5FFF 1 p = true) ∧
      (∃ m ∈ { base with msends := [{ message with vwrite := [5] }] }.msends, m.pasid = 5 ∧ ∃ p ∈ m.vwrite, pageIn 0x5000 1 p = true) ∧
      ∃ m ∈ { base with moves := [{ move .tst 3 with vwrite := [5] }] }.moves, m.pasid = 0 ∧ ∃ p ∈ m.vread ++ m.vwrite, pageIn 0x5000 1 p = true) ∧
    (base.moves = [] ∧ base.msends = [] ∧ base.eoss = [] ∧ base.invals = [] ∧ ∀ k ∈ base.cores, ∀ e ∈ k.2.tlb, e.within 0 0 4096 = true → e.dirty = false) ∧
    (logged.dlogs = [((0 : BitVec 20).toNat, dlog)] ∧ logged.oneDirty 0 dlog dirty) := by
  refine ⟨by decide +kernel, by decide +kernel, by decide +kernel, by decide +kernel, by decide +kernel, by decide +kernel, rfl, ?_⟩
  unfold State.oneDirty
  decide +kernel

/-- An export of one object to every fabric access, under key 5. -/
def exported (o : Obj) : State := { objects 0 0 o with exports := [(3, ⟨0x1000, 4096, 0, 0, 0, 0, 7, true, 5⟩)] }

theorem opens_of (o : Obj) (off n perm : Nat) (use : Use) (uid : Nat) (h : o.live = true ∧ o.gen = 0 ∧ o.check use uid (off - 0x1000 : Nat) n 0 = .ok () ∧ o.isClosed (off - 0x1000) n = false ∧ o.brk = false)
    (h1 : 0x1000 ≤ off) (h2 : off + n ≤ 0x2000) (h3 : 0 < n) (h4 : perm < 3) : (exported o).opens 5 off n perm use uid 0 0 (off - 0x1000) o := by
  refine ⟨3, ⟨0x1000, 4096, 0, 0, 0, 0, 7, true, 5⟩, ?_, rfl, by show off + n ≤ 0x1000 + 4096; omega, ?_, rfl, rfl, rfl, ?_, h.1, h.2.1, h.2.2.1, h.2.2.2.1, h.2.2.2.2⟩
  · show List.find? _ [_] = _
    rw [List.find?_cons_of_pos]
    simp only [Bool.and_eq_true, decide_eq_true_eq]
    omega
  · have : perm = 0 ∨ perm = 1 ∨ perm = 2 := by omega
    rcases this with rfl | rfl | rfl <;> decide
  · rfl

theorem unclosed_of (o : Obj) (h : o.closed = []) (d j : Nat) (k : Obj) (e : (exported o).obj d j = some k) : k.closed = [] := by
  have : (exported o).obj d j = if d = 0 ∧ j = 0 then some o else none := by
    cases d with
    | zero =>
      cases j with
      | zero => rfl
      | succ j => rfl
    | succ d => rfl
  rw [this] at e
  split at e
  · cases e; exact h
  · cases e

/-- The last bytes of an export; streams at whose cursors the accesses lie. -/
theorem witness_Fabric : (∀ r ∈ [(0x1000, 8, hbmPA 0), (0x1FF8, 8, hbmPA 4088)], ∃ d j a o, (exported (obj .fixed none)).opens 5 r.1 r.2.1 0 .read 0 d j a o ∧ r.2.2 = hbmPA (o.base + a)) ∧
    ((0x1FF8, leBytes 8 9) ∈ [(0x1FF8, leBytes 8 9)] ∧
      ((exported (obj .own none)).exports.find? (fun x => x.2.start ≤ 0x1FF8 && 0x1FF8 < x.2.start + x.2.len)).map (fun x => (x.2.die, x.2.slot, 0x1FF8 - x.2.start + x.2.off)) = some (0, 0, 4088) ∧
      (exported (obj .own none)).obj 0 0 = some (obj .own none) ∧ (∃ g ∈ (obj .own none).segsIn 4088 (leBytes 8 9).length, g.2.owner ≠ some 0) ∧
      ∀ d j k, (exported (obj .own none)).obj d j = some k → k.closed = []) ∧
    ((exported (obj (.flow 4) (some stream))).opens 5 0x1000 8 0 .flowRead 0 0 0 0 (obj (.flow 4) (some stream)) ∧ 8 % (obj (.flow 4) (some stream)).flowSize = 0 ∧ 0 = stream.c ∧
      (obj (.flow 4) (some stream)).brk = false ∧ stream.ready 0 8 = some 8) ∧
    ((exported (obj (.flow 4) (some stream))).opens 5 0x1000 (leBytes 8 9).length 1 .flowWrite (2 ^ 64 * (9 + 1) + 4) 0 0 0 (obj (.flow 4) (some stream)) ∧ (obj (.flow 4) (some stream)).flowStart = 0 ∧
      (leBytes 8 9).length % (obj (.flow 4) (some stream)).flowSize = 0 ∧
      (obj (.flow 4) (some stream)).reserve stream (2 ^ 64 * (9 + 1) + 4) 0 (leBytes 8 9).length = .at 8 ∧
      (exported (obj (.flow 4) (some stream))).opens 5 0x1000 1 1 .flowWrite (2 ^ 64 * (9 + 1) + 4) 0 0 0 (obj (.flow 4) (some stream)) ∧ stream.canBind (2 ^ 64 * (9 + 1) + 4) = true) ∧
    ((exported (obj (.fold 0 0) none)).opens 5 0x1FFC 4 2 .fold 0 0 0 4092 (obj (.fold 0 0) none) ∧ ((obj (.fold 0 0) none).segAt 4092).map Seg.role = some (.fold 0 0) ∧ 4092 % 4 = 0 ∧
      (exported (obj (.fold 0 0) none)).reduces 0x1FFC = true) ∧
    ((exported (obj (.fold 10 0xF0) none)).opens 5 0x1FF8 8 2 .fold 0 0 0 4088 (obj (.fold 10 0xF0) none) ∧ ((obj (.fold 10 0xF0) none).segAt 4088).map Seg.role = some (.fold 10 0xF0) ∧
      4088 % 8 = 0 ∧ (exported (obj (.fold 10 0xF0) none)).reduces 0x1FF8 = true) ∧
    ((exported (obj .fixed none)).exports.find? (fun x => x.2.start ≤ 0x2000 && 0x2000 < x.2.start + x.2.len) = none ∧ (exported (obj .fixed none)).reduces 0x2000 = false) := by
  have fixed (off : Nat) (h : (obj .fixed none).check .read 0 (off - 0x1000 : Nat) 8 0 = .ok () ∧ (obj .fixed none).isClosed (off - 0x1000) 8 = false) (h1 : 0x1000 ≤ off) (h2 : off + 8 ≤ 0x2000) :=
    opens_of (obj .fixed none) off 8 0 .read 0 ⟨rfl, rfl, h.1, h.2, rfl⟩ h1 h2 (by decide) (by decide)
  refine ⟨?_, ⟨by decide +kernel, by decide +kernel, rfl, by decide +kernel, unclosed_of _ rfl⟩,
    ⟨opens_of _ _ _ _ _ _ (by decide +kernel) (by decide) (by decide) (by decide) (by decide), by decide +kernel, rfl, rfl, by decide +kernel⟩,
    ⟨opens_of _ _ _ _ _ _ (by decide +kernel) (by decide) (by decide +kernel) (by decide +kernel) (by decide), by decide +kernel, by decide +kernel, by decide +kernel,
      opens_of _ _ _ _ _ _ (by decide +kernel) (by decide) (by decide) (by decide) (by decide), by decide +kernel⟩,
    ⟨opens_of _ _ _ _ _ _ (by decide +kernel) (by decide) (by decide) (by decide) (by decide), by decide +kernel, by decide, by decide +kernel⟩,
    ⟨opens_of _ _ _ _ _ _ (by decide +kernel) (by decide) (by decide) (by decide) (by decide), by decide +kernel, by decide, by decide +kernel⟩, by decide +kernel, by decide +kernel⟩
  intro r h
  simp only [List.mem_cons, List.not_mem_nil, or_false] at h
  rcases h with rfl | rfl
  · exact ⟨0, 0, _, _, fixed 0x1000 (by decide +kernel) (by decide) (by decide), by decide +kernel⟩
  · exact ⟨0, 0, _, _, fixed 0x1FF8 (by decide +kernel) (by decide) (by decide), by decide +kernel⟩

/-- Vectors that are due by their count and by their window. -/
theorem witness_Msix : ∀ k ∈ [(1, 0), (3, 0), (255, 8)], let s : State := { base with tick := 10, fns := [(2, { FnRegs.start with vecs := [(7, ⟨BitVec.ofNat 8 k.1, BitVec.ofNat 16 k.2, true, 3, 2⟩)] })] }
    (s.vector 2 7).arm = true ∧ (s.vector 2 7).pending ≠ 0 ∧
      (max 1 (s.vector 2 7).count.toNat ≤ (s.vector 2 7).pending.toNat ∨ (s.vector 2 7).window.toNat ≤ (s.tick - (s.vector 2 7).oldest).toNat) := by
  decide +kernel

/-- The first bytes of SHAKE-256 of the empty message, as FIPS 202 gives them. -/
theorem test_shake : (shake256 []).take 4 = [0x46, 0xB9, 0xDD, 0x2B] := by decide +kernel

/-- Function 5 with a command that has arrived after one of function 4, whose mailbox does not run. -/
def arriving : State :=
  { base with fns := [(5, { FnRegs.start with run := true, tail := 1, ringSize := 6, cplSize := 6 })], arrivals := [(4, 1), (5, 1)] }

/-- Values on both sides of each register's field. -/
theorem witness_Registers : (16 < 17) ∧ (0xFFFF : Word).toNat < 2 ^ 16 ∧ 2 ^ 16 ≤ (0x10000 : Word).toNat ∧ 2047 < 2048 ∧ (1 : Word).toNat / 2 ^ 48 = 0 ∧ bitsAt 1 1 31 = 0 ∧
    bitsAt 2 1 31 ≠ 0 ∧ (0xFFFFFF : Word).toNat < 2 ^ 24 ∧ 2 ^ 24 ≤ (0x1000000 : Word).toNat ∧ 0x18 ∉ [0x00, 0x08, 0x10, 0x20, 0x28, 0x38, 0x48] ∧ (∀ k < 2048, 0x18 ≠ 0x1000 + 16 * k ∧ 0x18 ≠ 0x1008 + 16 * k) ∧
    (∀ a ∈ base.arrivals, a.1 ≠ 16) ∧ (0xFFFF : Word).setWidth 16 ≠ (base.fn 16).head ∧
    arriving.arrivals = [(4, 1)] ++ (5, 1) :: [] ∧ (∀ a ∈ [(4, 1)], arriving.served a.1 = false) ∧ arriving.engineBusy = false ∧ arriving.served 5 = true := by
  decide +kernel

/-- A function whose mailbox has a command in application, pages of a command's accesses at hand, each where it lies. -/
def page (p : Nat) (write : Bool) : PageRes := ⟨p, write, .at (4096 * p) true true⟩
def mailPages : List PageRes := [16, 17, 18, 19, 20, 21, 22, 23, 24].flatMap fun p => [page p false, page p true]
def mailFn (c : Command) : FnRegs := { FnRegs.start with waiting := some c, pasids := [0], pages := mailPages, cplSize := 6, run := true }
def mail (s : State) (fn : Nat) (c : Command) : State := { s with fns := [(fn, mailFn c)] }
def command (op : Nat) (w1 w2 w3 w4 w5 w6 : Word) : Command := ⟨BitVec.ofNat 64 (op * 2 ^ 56 + 2 ^ 48), w1, w2, w3, w4, w5, w6, 0⟩

theorem takesUp_of (s : State) (fn op : Nat) (c : Command) (h : s.recovery = false ∧ c.formed = true ∧ bitsAt c.w0 56 8 = op ∧ (if pf0Only c.op then fn = 0 else c.pasid = 0)) :
    (mail s fn c).takesUp fn c op := by
  have hf : (mail s fn c).fn fn = mailFn c := by
    unfold mail State.fn
    dsimp only
    rw [Sparse.get, if_pos rfl]
  refine ⟨?_, h.1, h.2.1, ?_, h.2.2.1⟩
  · unfold State.applies
    rw [hf]
    simp [mailFn, FnRegs.slotFree, FnRegs.start]
  · unfold State.permits
    rw [hf]
    have h := h.2.2.2
    revert h
    cases pf0Only c.op
    · intro h
      rw [show c.pasid = 0 from by simpa using h]
      rfl
    · intro h
      simpa using h

theorem mailBytes_of (s : State) (fn : Nat) (c : Command) (write host : Bool) (l : List Nat) (h : ∀ a ∈ l, 16 ≤ a / 4096 ∧ a / 4096 ≤ 24) : (mail s fn c).mailBytes fn write host l = .ok l := by
  induction l with
  | nil => rfl
  | cons a l ih =>
    obtain ⟨h1, h2⟩ := h a List.mem_cons_self
    have hf : (mail s fn c).fn fn = mailFn c := by
      unfold mail State.fn
      dsimp only
      rw [Sparse.get, if_pos rfl]
    have hp : (mail s fn c).mailPage fn (a / 4096) write = some (.at (4096 * (a / 4096)) true true) := by
      unfold State.mailPage
      rw [hf]
      have : a / 4096 = 16 ∨ a / 4096 = 17 ∨ a / 4096 = 18 ∨ a / 4096 = 19 ∨ a / 4096 = 20 ∨ a / 4096 = 21 ∨ a / 4096 = 22 ∨ a / 4096 = 23 ∨ a / 4096 = 24 := by omega
      rcases this with e | e | e | e | e | e | e | e | e <;> rw [e] <;> cases write <;> rfl
    have ha : (mail s fn c).mailPA fn a write host = some a := by
      unfold State.mailPA
      rw [hp]
      have : inHost a = true := by
        unfold inHost
        rw [decide_eq_true_eq]
        omega
      simp only [Nat.div_add_mod, this, Bool.not_true, Bool.and_false]
      rfl
    rw [State.mailBytes, ha, ih fun b hb => h b (List.mem_cons_of_mem _ hb)]

theorem span_nodup (a n : Nat) : (span a n).Nodup := List.nodup_range.map fun _ _ h => Nat.add_left_cancel h
theorem mem_span (a n x : Nat) (h : x ∈ span a n) : a ≤ x ∧ x < a + n := by
  unfold span at h
  simp only [List.mem_map, List.mem_range] at h
  omega

/-- Malformed words 0 (a reserved bit), operands out of range, recovery, a PASID of another function, a command of PF0's, an OP of no command. -/
theorem witness_BadCommands : (let c : Command := { command 10 0 0 0 0 0 0 with w0 := 0x0A09000000000000 }
      (mail base 5 c).applies 5 c = true ∧ (mail base 5 c).recovery = false ∧ c.formed = false) ∧
    (∀ c ∈ [command 3 1 0 0 0 0 0, command 8 0x200 0 0 0 0 0, command 19 4096 0 0 0 0 0], (mail base 5 c).applies 5 c = true ∧ (mail base 5 c).inRanges c = false) ∧
    (let c := command 10 0 0 0 0 0 0
     (mail { base with recovery := true } 5 c).applies 5 c = true ∧ (mail { base with recovery := true } 5 c).recovery = true ∧ bitsAt c.w0 56 8 ∉ [12, 21]) ∧
    (let c := command 11 0 0 0 0 0 0
     let s : State := { base with fns := [(5, { mailFn c with pasids := [1] })] }
     s.applies 5 c = true ∧ s.recovery = false ∧ c.formed = true ∧ s.inRanges c = true ∧ bitsAt c.w0 56 8 < 16 ∧ c.pasid ∉ (s.fn 5).pasids) ∧
    (let c := command 19 7 0 0 0 0 0
     (mail base 5 c).applies 5 c = true ∧ c.formed = true ∧ (mail base 5 c).inRanges c = true ∧ 16 ≤ bitsAt c.w0 56 8 ∧ 5 ≠ 0) ∧
    (let c := command 0x0D 0 0 0 0 0 0
     (mail base 5 c).applies 5 c = true ∧ (mail base 5 c).recovery = false ∧ bitsAt c.w0 56 8 ∉ [1, 2, 3, 4, 5, 6, 7, 8, 9, 10, 11, 12, 16, 17, 18, 19, 20, 21]) := by
  decide +kernel

/-- An object of PASID 0, of slot 0. -/
def owned : Obj := { obj .fixed none with pasid := 0 }
def pool (fn : Nat) (c : Command) : State := mail (exported owned) fn c

/-- NOP, FREE, HARVEST, DLOG of the fewest and the most entries, EXPORT of the last entry, off and on, to the top of the aperture. -/
theorem witness_Commands : (mail base 5 (command 10 0 0 0 0 0 0)).takesUp 5 (command 10 0 0 0 0 0 0) 10 ∧
    ((pool 5 (command 5 handle 0 0 0 0 0)).takesUp 5 (command 5 handle 0 0 0 0 0) 5 ∧ (pool 5 (command 5 handle 0 0 0 0 0)).obj 0 0 = some owned ∧ owned.live = true ∧
      handle = handleOf 0 0 owned ∧ (pool 5 (command 5 handle 0 0 0 0 0)).foreignOwn 0 owned = none) ∧
    (let c : Command := { command 6 0 0 0 0 0 0 with w0 := 0x0600000000000000 }
     (mail logged 5 c).takesUp 5 c 6 ∧ c.w0.getLsbD 48 = false ∧ (mail logged 5 c).oneDirty c.pasid dlog dirty) ∧
    (∀ w : Word, w = 64 ∨ w = 0x100000 → (mail base 5 (command 7 0x10000 w 0 0 0 0)).takesUp 5 (command 7 0x10000 w 0 0 0 0) 7 ∧ (0x10000 : Word).toNat % 4096 = 0 ∧
      ∃ k < 15, w.toNat = 2 ^ (6 + k)) ∧
    ((pool 5 (command 8 0xFF 0 0 0 0 0)).takesUp 5 (command 8 0xFF 0 0 0 0 0) 8 ∧ (0xFF : Word).toNat < 2 ^ 9 ∧ (0xFF : Word).getLsbD 8 = false) ∧
    (let c := command 8 0x1FF 0xFFFFFFFFF000 0x1000 handle 0 0x50000000F
     (pool 5 c).takesUp 5 c 8 ∧ c.w1.toNat < 2 ^ 9 ∧ c.w1.getLsbD 8 = true ∧ c.w2.toNat % 4096 = 0 ∧ c.w3.toNat % 4096 = 0 ∧ c.w2.toNat + c.w3.toNat ≤ 2 ^ 48 ∧ bitsAt c.w6 4 28 = 0 ∧
      (pool 5 c).obj 0 0 = some owned ∧ c.w4 = handleOf 0 0 owned ∧ owned.pasid = c.pasid ∧ c.w5.toNat + c.w3.toNat ≤ owned.len ∧
      ∀ x ∈ (pool 5 c).exports, x.1 ≠ bitsAt c.w1 0 8 → x.2.start + x.2.len ≤ c.w2.toNat ∨ c.w2.toNat + c.w3.toNat ≤ x.2.start) := by
  dsimp only
  refine ⟨takesUp_of _ _ _ _ (by decide +kernel), ⟨takesUp_of _ _ _ _ (by decide +kernel), by decide +kernel, by decide, by decide, by decide +kernel⟩,
    ⟨takesUp_of _ _ _ _ (by decide +kernel), by decide, by unfold State.oneDirty; decide +kernel⟩, ?_, ⟨takesUp_of _ _ _ _ (by decide +kernel), by decide, by decide⟩,
    takesUp_of _ _ _ _ (by decide +kernel), ?_⟩
  · rintro w (rfl | rfl)
    · exact ⟨takesUp_of _ _ _ _ (by decide +kernel), by decide, 0, by decide, by decide⟩
    · exact ⟨takesUp_of _ _ _ _ (by decide +kernel), by decide, 14, by decide, by decide⟩
  · decide +kernel

/-- REDWIN of the last window, ATTEST, and PF0's commands at the last function, core, die and fabric id. -/
theorem witness_Firmware : (let c := command 9 63 4095 0xFFFFFFFFF000 0x1000 0x1000FF0A 0xFFFF
      (mail base 5 c).takesUp 5 c 9 ∧ redwinRanges c = true) ∧
    (let c := command 12 0x10000 0x11000 0 0 0 0
     (mail base 5 c).takesUp 5 c 12 ∧ (mail base 5 c).mailBytes 5 false true (span c.w1.toNat 32) = .ok (span c.w1.toNat 32) ∧
      (mail base 5 c).mailBytes 5 true true (span c.w2.toNat 30040) = .ok (span c.w2.toNat 30040) ∧ (span c.w2.toNat 30040).Nodup ∧ ∀ a ∈ span c.w2.toNat 30040, a < 2 ^ 64) ∧
    (∀ w : Word, w = 0x1000FFFFF ∨ w = 0x2000FFFFF → let c := command 16 16 0xFFFF w 0 0 0
     (mail State.reset 0 c).takesUp 0 c 16 ∧ assignRanges c = true ∧ ((mail State.reset 0 c).fn c.w1.toNat).pasids.length < 64 ∧ (mail State.reset 0 c).places = []) ∧
    (let c := command 17 127 0x07070707 0 0 0 0
     (mail base 0 c).takesUp 0 c 17 ∧ c.w1.toNat < 128 ∧ c.w2 &&& ~~~0x07070707 = 0) ∧
    (let c := command 18 1 0x1000 0x1000 0 0 0
     (mail base 0 c).takesUp 0 c 18 ∧ c.w1.toNat < 2 ∧ c.w2.toNat % 4096 = 0 ∧ c.w3.toNat % 4096 = 0 ∧ c.w2.toNat ≤ c.w3.toNat) ∧
    ((mail base 0 (command 19 4095 0 0 0 0 0)).takesUp 0 (command 19 4095 0 0 0 0 0) 19 ∧ (4095 : Word).toNat < 4096) ∧
    ((mail base 0 (command 20 0xFFFFFFFF 0 0 0 0 0)).takesUp 0 (command 20 0xFFFFFFFF 0 0 0 0 0) 20 ∧ (0xFFFFFFFF : Word).toNat < 2 ^ 32) ∧
    (let c := command 21 0x10000 4096 0 0 0 0
     (mail base 0 c).takesUp 0 c 21 ∧ (mail base 0 c).mailBytes 0 false true (span c.w1.toNat c.w2.toNat) = .ok (span c.w1.toNat c.w2.toNat)) ∧
    (let c := command 4 4096 foldDesc 0 0 0 0
     (mail base 5 c).takesUp 5 c 4 ∧ allocRanges c = true ∧ c.w3 = 0 ∧ (mail base 5 c).roomNow c.w5.toNat ((c.w1.toNat + 4095) / 4096) = true) ∧
    (mail base 5 (command 11 0 0 0 0 0 0)).takesUp 5 (command 11 0 0 0 0 0 0) 11 := by
  dsimp only
  refine ⟨⟨takesUp_of _ _ _ _ (by decide +kernel), by decide⟩, ⟨takesUp_of _ _ _ _ (by decide +kernel), mailBytes_of _ _ _ _ _ _ ?_, mailBytes_of _ _ _ _ _ _ ?_, span_nodup _ _, ?_⟩,
    ?_, ⟨takesUp_of _ _ _ _ (by decide +kernel), by decide, by decide⟩, ⟨takesUp_of _ _ _ _ (by decide +kernel), by decide, by decide, by decide, by decide⟩,
    ⟨takesUp_of _ _ _ _ (by decide +kernel), by decide⟩, ⟨takesUp_of _ _ _ _ (by decide +kernel), by decide⟩, ⟨takesUp_of _ _ _ _ (by decide +kernel), mailBytes_of _ _ _ _ _ _ ?_⟩,
    ⟨takesUp_of _ _ _ _ (by decide +kernel), by decide +kernel, by decide, ?_⟩, takesUp_of _ _ _ _ (by decide +kernel)⟩
  · intro a h
    have h : 65536 ≤ a ∧ a < 65536 + 32 := mem_span _ _ _ h
    omega
  · intro a h
    have h : 69632 ≤ a ∧ a < 69632 + 30040 := mem_span _ _ _ h
    omega
  · intro a h
    have h : 69632 ≤ a ∧ a < 69632 + 30040 := mem_span _ _ _ h
    omega
  · rintro w (rfl | rfl) <;> exact ⟨takesUp_of _ _ _ _ (by decide +kernel), by decide, by decide +kernel, by decide +kernel⟩
  · intro a h
    have h : 65536 ≤ a ∧ a < 65536 + 4096 := mem_span _ _ _ h
    omega
  · have := room_of (mail base 5 (command 4 4096 foldDesc 0 0 0 0)) 0 (fun _ => true) rfl
    unfold State.roomNow
    exact Bool.and_eq_true_iff.mpr ⟨by decide +kernel, this⟩

/-- A copy of 8 bytes between host memory at 0x10000 and the first scratchpad, with a flag word in the first cluster's store. -/
def copyCmd (op flags : Nat) : Command :=
  { command op 0 0 8 0x9000000000000100 7 0 with
    w0 := BitVec.ofNat 64 (op * 2 ^ 56 + flags * 2 ^ 49 + 2 ^ 48)
    w1 := if op = 1 then 0x10000 else 0xB000000000000000
    w2 := if op = 1 then 0xB000000000000000 else 0x10000 }
def flagAt : Nat := clusterPA 0 0x100
def copying (op flags : Nat) (g : BitVec 2) : State := mail { base with tags := setTag [] flagAt g } 5 (copyCmd op flags)

/-- With and without the release and the acquire, under each tag of the flag word. -/
theorem witness_CopyCommands : (∀ op ∈ [1, 2], ∀ flags ∈ [0, 1, 2, 3], ∀ g : BitVec 2,
      (copying op flags g).copyGoes 5 (copyCmd op flags) (span 0x10000 8) (span (spadPA 0 0) 8) ∧ (copying op flags g).takesUp 5 (copyCmd op flags) op ∧
        flagPA (copyCmd op flags).w4 = some flagAt ∧ tagAt (copying op flags g).tags flagAt = g ∧ ((copying op flags g).fn 5).acquired = false ∧
        ((copying op flags g).fn 5).flag = none ∧ ((copying op flags g).fn 5).slotFree = true ∧
        ((copying op flags g).fn 5).waiting = some (copyCmd op flags) ∧ (copying op flags g).poisoned (span (spadPA 0 0) 8) = false) ∧
    (copyCmd 1 1).w0.getLsbD 49 = true ∧ (copyCmd 1 1).w0.getLsbD 50 = false ∧ (copyCmd 1 2).w0.getLsbD 50 = true ∧
    bitsAt (copyCmd 1 2).w0 56 8 = 1 ∧ bitsAt (copyCmd 2 2).w0 56 8 = 2 := by
  refine ⟨fun op ho flags hf g => ?_, by decide, by decide, by decide, by decide, by decide⟩
  simp only [List.mem_cons, List.not_mem_nil, or_false] at ho hf
  have hg : g = 0 ∨ g = 1 ∨ g = 2 ∨ g = 3 := by revert g; decide
  have hs : ∀ x, ((copying op flags g).ctx x).stores = [] := fun x => by cases x <;> rfl
  have ht : (copying op flags g).takesUp 5 (copyCmd op flags) op :=
    takesUp_of _ 5 op _ (by rcases ho with rfl | rfl <;> rcases hf with rfl | rfl | rfl | rfl <;> rcases hg with rfl | rfl | rfl | rfl <;> decide +kernel)
  refine ⟨⟨?_, ?_, ?_, ?_, span_nodup _ _, span_nodup _ _, rfl, ?_, ?_, ?_, hs, rfl, ?_⟩, ht, ?_, ?_, rfl, rfl, ?_, rfl, ?_⟩
  all_goals rcases ho with rfl | rfl <;> rcases hf with rfl | rfl | rfl | rfl <;> rcases hg with rfl | rfl | rfl | rfl <;> decide +kernel

/-- A copy that has found its flag word FULL, and one whose look at it was no error. -/
theorem witness_CopyGoesOn : let s := copying 1 2 tagFull
    (s.modFn 5 fun f => { f with acquired := true }).copyGoes 5 (copyCmd 1 2) (span 0x10000 8) (span (spadPA 0 0) 8) ∧
      ((s.modFn 5 fun f => { f with acquired := true }).fn 5).acquired = true ∧
      (s.modFn 5 fun f => { f with flag := some (flagAt, .tagged) }).copyGoes 5 (copyCmd 1 2) (span 0x10000 8) (span (spadPA 0 0) 8) ∧
      ((s.modFn 5 fun f => { f with flag := some (flagAt, .tagged) }).fn 5).flag = some (flagAt, .tagged) := by
  dsimp only
  refine ⟨⟨?_, ?_, ?_, ?_, span_nodup _ _, span_nodup _ _, rfl, ?_, ?_, ?_, fun x => by cases x <;> rfl, rfl, ?_⟩, ?_,
    ⟨?_, ?_, ?_, ?_, span_nodup _ _, span_nodup _ _, rfl, ?_, ?_, ?_, fun x => by cases x <;> rfl, rfl, ?_⟩, ?_⟩ <;> decide +kernel

/-- A LAUNCH whose header has no root and asks for a message of vector 7. -/
def badLaunch : State := mail { base with mem := writeBytes [] 0x10000 (leBytes 8 (2 ^ 33 + 7 * 2 ^ 16)) } 5 (command 3 0x10000 0 0 0 0 0)
theorem witness_BadLaunch : badLaunch.takesUp 5 (command 3 0x10000 0 0 0 0 0) 3 ∧ (0x10000 : Word).toNat % 64 = 0 ∧
    badLaunch.mailBytes 5 false true (span 0x10000 64) = .ok (span 0x10000 64) ∧ headerOk ((span 0x10000 64).map (byteAt badLaunch.mem)) = false ∧
    (wordAt ((span 0x10000 64).map (byteAt badLaunch.mem)) 0).getLsbD 33 = true := by
  refine ⟨takesUp_of _ _ _ _ (by decide +kernel), by decide, mailBytes_of _ _ _ _ _ _ fun a h => ?_, by decide +kernel, by decide +kernel⟩
  have h : 65536 ≤ a ∧ a < 65536 + 64 := mem_span _ _ _ h
  omega

/-- A launch descriptor of one root: entry 4, a footprint of one line, pinned to core 127. -/
def descriptor : List Nat := [1, 0, 0, 0, 0, 0, 0, 0, 4, 0x0FFFFFFFFFFFFFFF, 0, 0, 0, 0x10000, 0, 0x1FF] ++ List.replicate 8 0
def launching : State := (mail { State.reset with mem := writeBytes [] 0x10000 (descriptor.flatMap (leBytes 8)) } 0 (command 3 0x10000 0 0 0 0 0))
def descBytes : List Byte := descriptor.flatMap (leBytes 8)
def joinWord : Nat := diePA 1 0x01FF0000

theorem witness_Launch : (let c := command 3 0x10000 0 0 0 0 0
      let r := rootAt descBytes 0
      launching.takesUp 0 c 3 ∧ c.w1.toNat % 64 = 0 ∧ launching.descriptorAt 0 c descBytes ∧ launching.launches = [] ∧ bitsAt (wordAt descBytes 0) 0 16 = 1 ∧
        headerOk (descBytes.take 64) = true ∧ (launching.fn 0).placing = none ∧ launching.rootOk 0 r = true ∧ r.img = 0 ∧ r.trec.pin = true ∧ r.trec.coreNum = 127 ∧
        launching.freeWord r.trec.die = some joinWord ∧ (launching.core 127).deque.length < 64 ∧ r.trec.arg1.toNat < 2 ^ 60 ∧ r.trec.arg2.toNat < 2 ^ 60) := by
  dsimp only
  refine ⟨takesUp_of _ 0 3 _ (by decide +kernel), by decide, ⟨span 0x10000 192, mailBytes_of _ _ _ _ _ _ fun a h => ?_, by decide +kernel⟩, rfl, ?_⟩
  · have h : 65536 ≤ a ∧ a < 65536 + 192 := mem_span _ _ _ h
    omega
  · decide +kernel

/-- A launch of which nothing remains, with a kill and torn down or not. -/
def launched (torn : Bool) (kills : List Kill) : Launch := ⟨4, 5, 0, 7, 9, 0, 0, true, 3, [joinWord], kills, torn, 3, [], false⟩
def ending (l : Launch) : State :=
  { State.reset with launches := [l], fns := [(5, { FnRegs.start with cplSize := 6 })], tags := setTag [] joinWord tagFull }

theorem witness_LaunchEnd : ∀ torn : Bool, ∀ kills ∈ [[], [⟨3, none, []⟩]], let l := launched torn kills
    (ending l).launchOf l.id = some l ∧ l.words.all (ending l).wordDone = true ∧ ((ending l).fn l.fn).placing = none ∧ (ending l).launchConds l.id = [] ∧
      (ending l).launchBusy l.id = false ∧ (∀ k ∈ l.kills, k.base = none ∨ k.record = []) ∧ l.mute = false ∧ ((ending l).fn l.fn).slotFree = true ∧ (ending l).dlogs = [] := by
  decide +kernel

/-- Dies idle and not, with a re-plan, a row being copied and a unit in quarantine. -/
def repairing : State := State.reset.modDie 1 fun d => { d with replan := true, rows := [(6, 0)], quarantine := [halfUnits] }

theorem witness_Resets : 16 < 17 ∧ State.reset.dieIdle 1 = true ∧ base.dieIdle 0 = false ∧ (repairing.die 1).replan = true ∧ (repairing.die 1).rows.find? (fun r => r.1 = 5) = none ∧
    (repairing.die 1).rows.find? (fun r => r.1 = 6) = some (6, 0) ∧ halfUnits ∈ (repairing.die 1).quarantine := by decide +kernel

/-- A bundle of two syllables, a branch of S0 and an ADD of S1, on the page that base maps. -/
def twoHead : State := { base with mem := writeBytes (writeBytes [] 0 (leBytes 4 0x07000000)) 4 (leBytes 4 0x80000000) }
def branchHead : Queued := ⟨.s0, 0, ⟨false, false, .branch 0 0 0⟩, none, none, []⟩
def addNext : Queued := ⟨.s1, 1, ⟨true, false, .add 0 0 0 0 0⟩, none, none, []⟩

/-- An ADD in the queues; the bundle of base, one ADD; and that of two syllables. -/
theorem witness_Step : (let s := dispatched (.add 0 0 0 0 0) none id
      0 = 4 * s.focus + (s.core s.focus).running ∧ s.sched = [] ∧ s.evTurn = false ∧ s.ready 0 = true ∧ (s.core s.focus).seek = false ∧
        (∀ e : Nat, e / 4 = s.focus → e ≠ 0 → s.lingers e = false) ∧ s.residues = [] ∧
        s.issuable 0 = [(bundleOf (queuedSyl (.add 0 0 0 0 0) none), queuedSyl (.add 0 0 0 0 0) none)]) ∧
    (∀ k ∈ [(base, ([] : List Queued), addHead), (twoHead, [branchHead], addNext)], let s := k.1
      let l := k.2.1 ++ k.2.2 :: []
      0 = 4 * s.focus + (s.core s.focus).running ∧ s.sched = [] ∧ s.evTurn = false ∧ s.ready 0 = true ∧ (s.core s.focus).seek = false ∧
        (∀ e : Nat, e / 4 = s.focus → e ≠ 0 → s.lingers e = false) ∧ s.residues = [] ∧
        (s.ctx 0).queue = [] ∧ (s.ctx 0).late = [] ∧ (s.ctx 0).stores = [] ∧ (∀ sl, s.slotStuck 0 sl = false) ∧ ({ s.ctx 0 with entry := (s.ctx 0).entry + 1 } : Ctx).landingDue = false ∧ (∀ e ∈ s.skidEntries 0, (s.ctx 0).entry < e + 16) ∧
        (s.ctx 0).task.bind (·.fault) = none ∧ (s.ctx 0).redirectDue = none ∧ (s.ctx 0).preemptReq = false ∧ (∀ k : LoopSt, (s.ctx 0).loop = some k → k.started = true) ∧
        l.length ≤ 8 ∧ BundleAt s 0 (s.ctx 0).pc none 0 l ∧ (s.ctx 0).mnopMissing l = none ∧ (s.ctx 0).overBudget = false ∧ (s.ctx 0).entry ∉ (s.ctx 0).nulls ∧
        (∀ k ∈ l, Sparse.get 0 (s.ctx 0).front k.slot.num ≤ (s.ctx 0).entry) ∧ (∀ q ∈ k.2.1, isBranch q.syl.instr = true ∨ isLast q.syl.instr = true) ∧
        (isBranch k.2.2.syl.instr = false ∧ isLast k.2.2.syl.instr = false ∧ isLend k.2.2.syl.instr = false)) ∧
    State.reset.Canonical := by
  have small : ∀ e : Nat, e / 4 = 0 → e ≠ 0 → e = 1 ∨ e = 2 ∨ e = 3 := by omega
  refine ⟨⟨by decide +kernel, rfl, rfl, by decide +kernel, by decide +kernel, ?_, rfl, by decide +kernel⟩, fun k hk => ?_, ?_⟩
  · intro e h1 h2
    obtain rfl | rfl | rfl := small e h1 h2 <;> decide +kernel
  · simp only [List.mem_cons, List.not_mem_nil, or_false] at hk
    obtain rfl | rfl := hk
    · refine ⟨by decide +kernel, rfl, rfl, by decide +kernel, by decide +kernel, ?_, rfl, by decide +kernel, by decide +kernel, by decide +kernel, ?_, by decide +kernel, by decide +kernel, by decide +kernel,
        by decide +kernel, by decide +kernel, (fun k h => ?_), by decide, ?_, by decide +kernel, by decide +kernel, by decide +kernel, by decide +kernel, by decide, by decide⟩
      · intro e h1 h2
        obtain rfl | rfl | rfl := small e h1 h2 <;> decide +kernel
      · intro sl
        cases sl <;> decide +kernel
      · have h0 : (base.ctx 0).loop = none := by decide +kernel
        have h : (base.ctx 0).loop = some k := h
        rw [h0] at h
        cases h
      · exact ⟨by decide +kernel, ⟨0, 0, true, true, by decide +kernel, by decide +kernel, rfl, rfl, rfl, rfl, rfl, fun h => (h rfl).elim⟩, by decide⟩
    · refine ⟨by decide +kernel, rfl, rfl, by decide +kernel, by decide +kernel, ?_, rfl, by decide +kernel, by decide +kernel, by decide +kernel, ?_, by decide +kernel, by decide +kernel, by decide +kernel,
        by decide +kernel, by decide +kernel, (fun k h => ?_), by decide, ?_, by decide +kernel, by decide +kernel, by decide +kernel, by decide +kernel, by decide, by decide⟩
      · intro e h1 h2
        obtain rfl | rfl | rfl := small e h1 h2 <;> decide +kernel
      · intro sl
        cases sl <;> decide +kernel
      · have h0 : (twoHead.ctx 0).loop = none := by decide +kernel
        have h : (twoHead.ctx 0).loop = some k := h
        rw [h0] at h
        cases h
      · exact ⟨by decide +kernel, ⟨0, 0, true, true, by decide +kernel, by decide +kernel, rfl, rfl, rfl, rfl, rfl, fun _ =>
          ⟨by decide +kernel, ⟨0, 1, true, true, by decide +kernel, by decide +kernel, rfl, rfl, rfl, rfl, rfl, fun h => (h rfl).elim⟩, by decide⟩⟩, by decide⟩
  · constructor <;> decide +kernel

/-! Instruction words, one for every syllable: match bits and field places as spec/opcode_table.json and R69 to R80 give them. -/

/-- S class, register forms (R69, R70, R82). -/
def wordsScalar : List (Nat × Instr) :=
  [(0x00059F35, .add 5 19 28 26 1), (0x00292433, .sub 9 4 16 25 1), (0x0058D5B9, .and 24 26 22 28 1), (0x0064807B, .or 4 16 1 29 1), (0x0093B19D, .xor 19 22 6 14 1),
   (0x00B77A71, .andn 23 15 9 24 1), (0x00D3F93B, .shl 19 31 4 29 1), (0x00E1086B, .shr 1 1 1 21 1), (0x010AC877, .sar 10 25 1 27 1), (0x01314191, .mul 17 8 6 8 1),
   (0x01597FE1, .mulh 25 15 31 16 1), (0x0166598B, .mulhz 6 11 6 5 1), (0x0191B48D, .div 17 22 18 6 1), (0x01BBF4BD, .divz 27 30 18 30 1), (0x01C6AE39, .rem 6 21 24 28 1),
   (0x01E4C2FB, .remz 4 24 11 29 1), (0x0211DFAD, .min 17 27 30 22 1), (0x022A54FB, .max 10 10 19 29 1), (0x0256EBFB, .minz 22 29 15 29 1), (0x0277E2FF, .maxz 23 28 11 31 1),
   (0x028EB1A0, .sadd 14 22 6 2), (0x02B2EDC1, .clz 18 29 23 1), (0x02C37D81, .popc 3 15 22 1)]

theorem test_wordsScalar : ∀ p ∈ wordsScalar, decodeTableWord 32 p.1 = some p.2 := by decide +kernel

/-- S class, SE to SL formats (R69 to R71, R82). -/
def wordsImmediate : List (Nat × Instr) :=
  [(0x02F93460, .sext 25 6 17 2), (0x030A7850, .zext 10 15 1 1), (0x0330129C, .sel 16 2 10 7), (0x0353539E, .cmp 9 10 19 19 1 1), (0x036751F7, .cmpi 3 5 8 503),
   (0x03830940, .plog 1 8 4 5), (0x03B6C800, .movp 1 13 9), (0x040CFEC8, .addi 12 31 1736), (0x043363AD, .andi 19 12 941), (0x045E4D47, .ori 30 9 1351),
   (0x0472A7A9, .xori 18 20 1961), (0x04980819, .shli 24 1 25), (0x04BAE035, .shri 26 28 53), (0x04DFE83D, .sari 31 29 61), (0x04F88E7A, .muli 24 17 1658),
   (0x050584C9, .lil 5 33993), (0x05398FB6, .lih 25 36790), (0x05476D15, .liu 7 27925), (0x057F0E5F, .lix 31 3679)]

theorem test_wordsImmediate : ∀ p ∈ wordsImmediate, decodeTableWord 32 p.1 = some p.2 := by decide +kernel

/-- S class, memory, CSRs and branches (R69, R72, R73, R82). -/
def wordsScalarMemory : List (Nat × Instr) :=
  [(0x0590E05E, .ldb 16 28 94), (0x05939134, .ldbz 19 18 52), (0x059F8A6A, .ldh 31 17 106), (0x0590DB5C, .ldhz 16 27 92), (0x058E6401, .ldw 14 12 1),
   (0x059295A0, .ldwz 18 18 160), (0x059AA655, .ldd 26 20 85), (0x05AFA008, .stb 15 20 8), (0x05BA42A3, .sth 26 8 163), (0x05A69496, .stw 6 18 150),
   (0x05A6E618, .std 6 28 24), (0x05DA9199, .ldf 26 18 409), (0x05DCDBDD, .ldfe 28 27 477), (0x05E911AF, .ste 9 2 431), (0x05FFB225, .stfl 31 22 37),
   (0x0603E009, .tagget 3 28 9), (0x060F0B83, .tagset 15 1 387), (0x06329200, .shw 2 1 9 4), (0x0651002C, .csrr 17 44), (0x067E002A, .csrw 30 42),
   (0x070A9570, .branch 10 1 5488), (0x07264156, .jal 6 16726), (0x0751F800, .jr 17 31)]

theorem test_wordsScalarMemory : ∀ p ∈ wordsScalarMemory, decodeTableWord 32 p.1 = some p.2 := by decide +kernel

/-- V class, opcodes below 0x14 (R75, R83). -/
def wordsVector : List (Nat × Instr) :=
  [(0x0807A6B7, .vadd 3 3 9 21 23), (0x082B5D70, .vsub 5 2 23 11 16), (0x0850854D, .vmul 8 1 1 10 13), (0x0872D749, .vfma 9 1 21 26 9), (0x08857711, .vmin 2 2 29 24 17),
   (0x08A9BB61, .vmax 4 3 14 27 1), (0x08C8B4A0, .vabs 4 1 13 5), (0x08EEC420, .vneg 7 1 17 1), (0x0910DE36, .vand 8 23 17 22), (0x092ECB68, .vor 7 18 27 8),
   (0x0956EAF1, .vxor 11 26 23 17), (0x0970A235, .vshl 8 8 17 21), (0x0982B6D3, .vshr 1 13 22 19), (0x09B0AED5, .vsar 8 11 22 21), (0x09CECFE7, .vcmp 7 1 1 3 31 7),
   (0x09F48943, .vsel 10 2 10 3), (0x0A05A084, .vcvt 2 8 4 4), (0x0A2BE0C2, .vquant 5 24 6 2), (0x0A55A4A1, .vdeq 10 9 5 1), (0x0A6314E1, .vred 1 2 5 7 1)]

theorem test_wordsVector : ∀ p ∈ wordsVector, decodeTableWord 32 p.1 = some p.2 := by decide +kernel

/-- V class, opcodes from 0x14 on (R75, R83). -/
def wordsVectorMoves : List (Nat × Instr) :=
  [(0x0A935E22, .vscan 9 2 23 17 2), (0x0AB27320, .vexp2 9 28 25), (0x0ACE5220, .vlog2 7 20 17), (0x0AE234E0, .vrcp 1 13 7), (0x0B0C10E0, .vrsq 6 4 7),
   (0x0B357A23, .vsort 10 2 30 17 1 1), (0x0B44FECD, .vperm 2 31 22 13), (0x0B6AC600, .vbcast 5 17 16), (0x0B80AE9C, .vget 1 11 20 28), (0x0BAEF400, .viota 7 29),
   (0x0BCA84C0, .vmov 5 1 6), (0x0BE9F17A, .vcmul 4 28 11 26), (0x0C1468AB, .vtwosum 10 26 5 11), (0x0C2E9D26, .vld 7 7 9 1 2), (0x0C42BAA2, .vst 1 14 21 2),
   (0x0C72C332, .vldx 9 16 25 18), (0x0C888F02, .vstx 4 3 24 2), (0x0CA08420, .vlend 1 1), (0x0CC08400, .vrecl 1), (0x0CE6FA40, .vpopc 3 30 18)]

theorem test_wordsVectorMoves : ∀ p ∈ wordsVectorMoves, decodeTableWord 32 p.1 = some p.2 := by decide +kernel

/-- T class (R79, R84). -/
def wordsTranspose : List (Nat × Instr) :=
  [(0x10089000, .trin 4 9), (0x1030B000, .trpop 8 11), (0x10540086, .trcfg 10 33 2), (0x106C0000, .trclr 6)]

theorem test_wordsTranspose : ∀ p ∈ wordsTranspose, decodeTableWord 32 p.1 = some p.2 := by decide +kernel

/-- M class (R76, R77, R85). -/
def wordsMatrix : List (Nat × Instr) :=
  [(0x180F26B9, .mma 7 1 9 2 2 1 1 1 1), (0x182B12B9, .mmav 5 1 4 2 2 1 1 1 1), (0x184FEFE9, .mcma 7 1 59 3 3 1 1 1), (0x186CE808, .mzero 6 58 1),
   (0x188FF22A, .mdrain 7 1 60 2 1 1 2), (0x18ABA308, .mfill 5 1 40 3 1), (0x18CED808, .mfmt 7 6 6 1), (0x18E80008, .mnop 4 1)]

theorem test_wordsMatrix : ∀ p ∈ wordsMatrix, decodeTableWord 32 p.1 = some p.2 := by decide +kernel

/-- X class (R78, R86). -/
def wordsMove : List (Nat × Instr) :=
  [(0x201148F3, .tld 8 1 1 4 15 3), (0x203771C2, .tst 11 1 1 24 28 2), (0x204FFDB5, .tmov 7 1 3 30 27 5), (0x2073E0B2, .tmc 9 1 3 16 11 2), (0x20894218, .tldf 4 1 1 1 1 8),
   (0x20B5E8B8, .tstf 10 1 3 20 11 8), (0x20CF863A, .tacc 7 1 2 3 3 10), (0x20ED5201, .sld 6 1 1 9 1), (0x21102808, .twait 8 20 8), (0x2134F970, .ttag 10 3 28 23),
   (0x21502CC5, .preq 8 22 12 5)]

theorem test_wordsMove : ∀ p ∈ wordsMove, decodeTableWord 32 p.1 = some p.2 := by decide +kernel

/-- K class (R80, R87). -/
def wordsKernel : List (Nat × Instr) :=
  [(0x28064800, .loop 12 18), (0x28274000, .loopn 14 2), (0x2846B000, .loopp 13 1 2), (0x28640000, .fence 1), (0x289B8000, .arrive 27 1), (0x28A38000, .waitb 3 8),
   (0x28CF1800, .bari 15 3), (0x28FCEB04, .spawn 3 19 21 1 4), (0x2917D426, .spawnc 2 31 10 2 6), (0x29200000, .endTask), (0x29466000, .cnew 6 6),
   (0x297A9000, .resolve 26 9), (0x2993EF80, .recast 19 29 30), (0x29AA42C8, .halloc 10 8 11 2), (0x29D20000, .hfree 18), (0x29F49C00, .hpin 20 19 8),
   (0x2A140000, .hdrop 20), (0x2A234000, .hweak 3 8), (0x2A481000, .hprio 8 1), (0x2A7A4600, .msend 26 8 1), (0x2A830000, .eos 3), (0x2AA99000, .chkeq 9 18),
   (0x2AC0DE19, .trap 56857), (0x2AE00000, .eret), (0x2B001228, .brk 4648), (0x2B200000, .yield), (0x2B400000, .harvest), (0x2B782000, .join 24 2)]

theorem test_wordsKernel : ∀ p ∈ wordsKernel, decodeTableWord 32 p.1 = some p.2 := by decide +kernel

/-! Ill-formed terms, one or more for each check of Instr.wf, and words that R88 refuses. -/

def illFormed : List Instr :=
  [.add 16 1 2 3 0, .add 12 1 2 3 0, .clz 28 1 2 0, .sext 0 1 2 3, .zext 13 1 2 0, .sel 1 2 3 12, .cmp 12 0 1 2 0 0, .cmp 1 12 1 2 0 0, .cmp 11 0 1 2 1 0, .cmpi 15 0 1 2,
   .plog 12 0 0 0, .plog 0 13 0 0, .plog 0 0 14 0, .movp 0 1 12, .shw 0 0 14 1, .csrr 1 7, .csrr 1 0x30, .csrr 1 0x807, .csrw 1 2, .csrw 1 0x806, .branch 16 0 0, .jr 15 1]

def illFormedVT : List Instr :=
  [.vadd 12 0 1 2 3, .vfma 0 2 1 2 3, .vabs 0 3 1 2, .vneg 13 0 1 2, .vand 12 1 2 3, .vcmp 0 0 0 12 1 2, .vcmp 12 0 0 1 1 2, .vsel 12 1 2 3, .vcvt 0 1 2 0x15, .vquant 0 1 2 3,
   .vdeq 12 1 2 0, .vred 0 3 1 2 0, .vscan 0 0 1 2 3, .vexp2 12 1 2, .vsort 0 3 1 2 3 0, .vperm 12 1 2 3, .vget 0 1 2 3, .vtwosum 0 1 2 3, .vld 0 1 2 0 3, .vld 0 1 2 1 0, .vst 0 1 2 3,
   .vldx 12 1 2 3, .trin 12 0, .trcfg 0 0 3]

def illFormedMXK : List Instr :=
  [.mma 0 0 0 0 0 0 0 0 2, .mma 12 0 0 0 0 0 0 0 0, .mmav 0 0 0 0 0 0 0 0 7, .mcma 0 0 0 0 0 0 0 3, .mzero 12 0 0, .mdrain 0 0 0 0 0 0 6, .mfill 13 0 0 0 0, .mfmt 0 0 1 0, .mfmt 0 7 3 0,
   .mfmt 12 0 0 0, .mnop 12 0, .tld 12 0 0 1 2 0, .tmov 0 0 0 1 2 12, .sld 12 0 0 1 0, .twait 0 1 12, .ttag 12 0 1 2, .preq 0 1 2 13, .fence 7, .waitb 1 12, .spawn 0 1 2 0 12, .cnew 1 12,
   .halloc 1 2 3 15, .hpin 1 2 12]

theorem test_illFormed : (∀ i ∈ illFormed, i.wf = false) ∧ (∀ i ∈ illFormedVT, i.wf = false) ∧ ∀ i ∈ illFormedMXK, i.wf = false := by decide +kernel

/-- Opcodes of no row in each class, fields marked zero, codes marked undefined (R81 to R88). -/
theorem test_undefinedWords : ∀ w ∈ [0x03C00000, 0x07600000, 0x0D000000, 0x10800000, 0x19000000, 0x21600000, 0x2B800000, 0x02800001, 0x04800040, 0x05800700, 0x13FFFFFF, 0x18000002, 0x30000000, 0x38000000],
    decodeTableWord 32 w = none := by decide +kernel

/-! Single steps and single instructions, against values worked out by hand from the rules. -/

/-- What exec leaves of a part of the state; d where it does not go on. -/
def after {α : Type} (r : Out) (d : α) (f : State → α) : α := match r with | .next t => f t | _ => d

/-- A step of a placed word issues it: ADD s0 takes an entry and moves on by one word (R35, R53). -/
theorem test_step_add : after (step base) (0, 0) (fun t => ((t.ctx 0).entry, (t.ctx 0).pc.toNat)) = (2, 4) := by decide +kernel

/-- -1 + 1 in 32 bits is 0; the sum waits for its landing (R39, R121). -/
theorem test_add_wraps : after (exec (.add 0 3 1 2 1) (regs 0xFFFFFFFF 1)) [] (fun t => ((t.ctx 0).sreg 3).pend.map fun k => (k.land, k.val.toNat)) = [(2, 0)] := by decide +kernel

/-- The most negative number divided by -1 is itself, and a quotient by 0 is all ones (R122). -/
theorem test_div_corners : after (exec (.div 0 3 1 2 0) (regs 0x8000000000000000 0xFFFFFFFFFFFFFFFF)) [] (fun t => ((t.ctx 0).sreg 3).pend.map (·.val.toNat)) = [2 ^ 63] ∧
    after (exec (.div 0 3 1 2 0) (regs 7 0)) [] (fun t => ((t.ctx 0).sreg 3).pend.map (·.val.toNat)) = [2 ^ 64 - 1] := by decide +kernel

/-- A store of 8 bytes to the own scratchpad lands four entries on (R41, R131). -/
theorem test_std_lands : after (exec (.std 2 1 0) (regs lastWord 9)) [] (fun t => (t.ctx 0).stores.map fun r => (r.land, r.bytes.length)) = [(5, 8)] := by decide +kernel

/-- A branch by 4 words goes to the address of its bundle plus 16 (R71, R145). -/
theorem test_branch : after (exec (.branch 0 0 4) base) [] (fun t => (t.ctx 0).redirects.map fun r => r.2.toNat) = [16] := by decide +kernel

/-- LIH writes bits [31:16] alone (R127). -/
theorem test_lih : after (exec (.lih 1 0xABCD) (regs 0x1111222233334444 0)) [] (fun t => ((t.ctx 0).sreg 1).pend.map (·.val.toNat)) = [0x11112222ABCD4444] := by decide +kernel

/-- CMP of -1 with 0, signed less than, writes all ones, and with dual its complement to the next predicate (R128). -/
theorem test_cmp : after (exec (.cmp 3 2 1 2 1 0) (regs 0xFFFFFFFFFFFFFFFF 0)) [] (fun t => [3, 4].flatMap fun p => ((t.ctx 0).preg p).pend.map (·.val.toNat)) =
    [2 ^ 64 - 1, 0] := by decide +kernel

/-! The worked examples of spec/07_numbers_notes.md. -/

/-- One rounding of the sum of exact products: 0x3F801001, not 0x3F801000. -/
theorem test_push_rounds_once :
    let x : List Machine.Num := [f32 0x3F800800, f32 0x39800000]
    pushElem 0 (dotLines x x false) = 0x3F801001 := by decide +kernel

/-- A subnormal E4M3 code under a large scale keeps its value, or is flushed before its scale applies. -/
theorem test_push_subnormal :
    let line (fzn : Bool) (code scale : Nat) := lineElems .e4m3 fzn 8 (some fun _ => scale) code
    pushElem 0 (dotLines (line false 0x03 0x8A) (line false 0x38 0x7F) false) = 0x41400000 ∧
      pushElem 0 (dotLines (line true 0x03 0x8A) (line true 0x38 0x7F) false) = 0 := by decide +kernel

/-- Two compensated steps from 2^24 by 5.5. -/
theorem test_compensated :
    let s : Machine.Num := complexDot [f32 0x3F800000, f32 0x40000000, f32 0x3F000000, f32 0] [f32 0x40400000, f32 0xBF800000, f32 0x3F800000, f32 0] false
    compensate 0x4B800000 0 s = (0x4B800003, 0xBF000000) ∧ compensate 0x4B800003 0xBF000000 s = (0x4B800006, 0xBF800000) := by decide +kernel

/-- Blocks quantised: 1, -3.5, an infinity, 0.25 to E4M3, and infinities alone. -/
theorem test_quantised :
    let q (f : FF) (l : List Half) := let r := quantBlock f ⟨0, false, false⟩ (l.map f32); (r.1, r.2.map (·.bits))
    q .e4m3 [0x3F800000, 0xC0600000, 0x7F800000, 0x3E800000, 0, 0, 0, 0] = (0x78, [0x70, 0xFE, 0x7E, 0x60, 0, 0, 0, 0]) ∧
      q .e5m2 [0x3F800000, 0xC0600000, 0x7F800000, 0x3E800000, 0, 0, 0, 0] = (0x71, [0x74, 0xFB, 0x7C, 0x6C, 0, 0, 0, 0]) ∧
      q .e4m3 [0x7F800000, 0xFF800000, 0x7F800000, 0xFF800000, 0x7F800000, 0xFF800000, 0x7F800000, 0xFF800000] = (0x7F, [0x7E, 0xFE, 0x7E, 0xFE, 0x7E, 0xFE, 0x7E, 0xFE]) := by
  decide +kernel

/-- 1.5, -0.1 and 2^-20 folded with the scale exponent -16. -/
theorem test_fx64 :
    let f (w : Word) (x : Word) := (foldStep 10 0xF0 w x).1
    f (f (f 0 0x3FC00000) 0xBDCCCCCD) 0x35800000 = 0x16666 := by decide +kernel

end Sys2Proof.Tests
end

section
/-! SUPPORT. The scalar operations agree with the results of R121 to R130 over numbers, at every width. -/

namespace Sys2Proof.Machine

variable {n : Nat}

/-! Sums, differences and products. -/

theorem aluAdd_eq : aluAdd = specAdd := by
  funext n x y
  simp [aluAdd, specAdd, BitVec.ofNat_add]

theorem aluSub_eq : aluSub = specSub := by
  funext n x y
  apply BitVec.eq_of_toInt_eq
  simp [aluSub, specSub, BitVec.toInt_sub]

theorem aluMul_eq : aluMul = specMul := by
  funext n x y
  simp [aluMul, specMul, BitVec.ofInt_mul]

theorem aluMulh_eq : aluMulh = specMulh := rfl

theorem aluMulhz_eq : aluMulhz = specMulhz := rfl

/-! Operations bit by bit, and shifts. -/

theorem aluAnd_eq : aluAnd = specAnd := by
  funext n x y
  apply BitVec.eq_of_getLsbD_eq
  intro i hi
  simp [aluAnd, specAnd, hi]

theorem aluOr_eq : aluOr = specOr := by
  funext n x y
  apply BitVec.eq_of_getLsbD_eq
  intro i hi
  simp [aluOr, specOr, hi]

theorem aluXor_eq : aluXor = specXor := by
  funext n x y
  apply BitVec.eq_of_getLsbD_eq
  intro i hi
  simp [aluXor, specXor, hi]

theorem aluAndn_eq : aluAndn = specAndn := by
  have hbool (p q : Bool) : (p && !q) = (p ^^ (p && q)) := by cases p <;> cases q <;> rfl
  funext n x y
  apply BitVec.eq_of_getLsbD_eq
  intro i hi
  simp [aluAndn, specAndn, hi, hbool]

theorem aluShl_eq : aluShl = specShl := by
  funext n x y
  apply BitVec.eq_of_toNat_eq
  simp [aluShl, specShl, Nat.shiftLeft_eq]

theorem aluShr_eq : aluShr = specShr := by
  funext n x y
  apply BitVec.eq_of_toNat_eq
  have h : x.toNat / 2 ^ (y.toNat % n) < 2 ^ n := lt_of_le_of_lt (Nat.div_le_self _ _) x.isLt
  simp [aluShr, specShr, Nat.shiftRight_eq_div_pow, Nat.mod_eq_of_lt h]

theorem aluSar_eq : aluSar = specSar := by
  funext n x y
  rw [aluSar, specSar, ← BitVec.ofInt_toInt (x := x.sshiftRight _), BitVec.toInt_sshiftRight, Int.shiftRight_eq_div_pow]
  norm_cast

/-! Quotients and remainders (R122): a divisor of zero gives all ones, or leaves the dividend. -/

theorem ofInt_neg_one_eq : BitVec.ofInt n (-1) = BitVec.allOnes n := by
  simp [← BitVec.neg_one_eq_allOnes, BitVec.ofInt_neg]

theorem toInt_eq_zero_iff (y : BitVec n) : y.toInt = 0 ↔ y = 0 := by
  rw [← BitVec.toInt_inj]; simp

theorem toNat_eq_zero_iff (y : BitVec n) : y.toNat = 0 ↔ y = 0 := by
  rw [BitVec.toNat_eq]; simp

theorem aluDiv_eq : aluDiv = specDiv := by
  funext n x y
  simp only [aluDiv, specDiv, toInt_eq_zero_iff, ofInt_neg_one_eq]
  split
  · rfl
  · apply BitVec.eq_of_toInt_eq
    rw [BitVec.toInt_sdiv, BitVec.toInt_ofInt]

theorem aluDivz_eq : aluDivz = specDivz := by
  funext n x y
  simp only [aluDivz, specDivz, toNat_eq_zero_iff, ofInt_neg_one_eq, BitVec.udiv_eq, ← BitVec.toNat_udiv, BitVec.ofNat_toNat,
    BitVec.setWidth_eq]

theorem aluRem_eq : aluRem = specRem := by
  funext n x y
  simp only [aluRem, specRem, toInt_eq_zero_iff, ← BitVec.toInt_srem, BitVec.ofInt_toInt]

theorem aluRemz_eq : aluRemz = specRemz := by
  funext n x y
  simp only [aluRemz, specRemz, toNat_eq_zero_iff, BitVec.umod_eq, ← BitVec.toNat_umod, BitVec.ofNat_toNat, BitVec.setWidth_eq]

/-! Minima and maxima. -/

theorem aluMin_eq : aluMin = specMin := by
  funext n x y
  simp only [aluMin, specMin, BitVec.slt_iff_toInt_lt, ← not_lt, ite_not]

theorem aluMinz_eq : aluMinz = specMinz := by
  funext n x y
  simp only [aluMinz, specMinz, BitVec.ult_iff_lt, BitVec.lt_def, ← not_lt, ite_not]

/-- Equal operands are one word, so that either is the maximum. -/
theorem aluMax_eq : aluMax = specMax := by
  funext n x y
  simp only [aluMax, specMax, BitVec.slt_iff_toInt_lt, le_iff_lt_or_eq, BitVec.toInt_inj]
  by_cases h : x = y <;> simp [h]

theorem aluMaxz_eq : aluMaxz = specMaxz := by
  funext n x y
  simp only [aluMaxz, specMaxz, BitVec.ult_iff_lt, BitVec.lt_def, le_iff_lt_or_eq, ← BitVec.toNat_eq]
  by_cases h : x = y <;> simp [h]

/-! Counts of bits (R121). -/

/-- The leading zeros of k bits are those above the highest one bit. -/
theorem leadZeros_eq (k x : Nat) (h : x < 2 ^ k) : leadZeros k x = k - (if x = 0 then 0 else Nat.log2 x + 1) := by
  induction k with
  | zero => simp [leadZeros]
  | succ k ih =>
    rw [leadZeros]
    by_cases hx : x < 2 ^ k
    · have hlog : x ≠ 0 → x.log2 < k := fun h0 => (Nat.log2_lt h0).2 hx
      rw [Nat.testBit_lt_two_pow hx, ih hx]
      split_ifs <;> simp_all <;> omega
    · have h0 : x ≠ 0 := fun h0 => hx (h0 ▸ Nat.two_pow_pos k)
      have hlog : x.log2 = k := (Nat.log2_eq_iff h0).2 ⟨not_lt.1 hx, h⟩
      have hbit : x.testBit k = true := hlog ▸ Nat.testBit_log2 h0
      simp [hbit, h0, hlog]

theorem aluClz_eq : aluClz = fun n u _ => specClz n u := by
  funext n x y
  rw [aluClz, specClz, leadZeros_eq n _ x.isLt]

theorem oneBits_eq (k x : Nat) : oneBits k x = (List.range k).countP fun i => x.testBit i := by
  induction k with
  | zero => rfl
  | succ k ih =>
    rw [oneBits, ih, List.range_succ, List.countP_append, List.countP_singleton, Nat.add_comm]

theorem aluPopc_eq : aluPopc = fun n u _ => specPopc n u := by
  funext n x y
  rw [aluPopc, specPopc, oneBits_eq]
  rfl

/-! Widths and extensions (R120, R124). -/

theorem saResult_eq (f : (n : Nat) → BitVec n → BitVec n → BitVec n) (w : BitVec 1) (x y : Word) : saResult f w x y = atWidth f w x y := by
  obtain rfl | rfl := w.eq_zero_or_eq_one <;> rfl

theorem sextWord_eq (k : Nat) (x : Word) : sextWord k x = BitVec.ofInt 64 (Int.bmod x.toNat (2 ^ k)) := by
  rw [sextWord, BitVec.signExtend, BitVec.toInt_setWidth]

theorem zextWord_eq (k : Nat) (x : Word) : (x.setWidth k).setWidth 64 = BitVec.ofNat 64 (x.toNat % 2 ^ k) := by
  apply BitVec.eq_of_toNat_eq
  simp

theorem saddWord_eq (k : Nat) (x y : Word) : x <<< k + y = BitVec.ofNat 64 (x.toNat * 2 ^ k + y.toNat) := by
  apply BitVec.eq_of_toNat_eq
  simp [Nat.shiftLeft_eq]

theorem blend_getLsbD {w : Nat} (x m y : BitVec w) (j : Nat) :
    (blend x m y).getLsbD j = if m.getLsbD j then y.getLsbD j else x.getLsbD j := by
  by_cases hj : j < w
  · cases hm : m.getLsbD j <;> simp_all [blend, BitVec.getLsbD_eq_getElem]
  · simp [BitVec.getLsbD_of_ge _ j (not_lt.1 hj)]

/-- The bits of a 16-bit mask at a place. -/
theorem pieceMask_getLsbD (k j : Nat) (hj : j < 64) : (0xFFFF#64 <<< k).getLsbD j = (!decide (j < k) && decide (j - k < 16)) := by
  have h16 : 0xFFFF#64 = BitVec.ofNat 64 (2 ^ 16 - 1) := rfl
  rw [BitVec.getLsbD_shiftLeft, h16, BitVec.getLsbD_ofNat, Nat.testBit_two_pow_sub_one]
  have hjk : j - k < 64 := by omega
  simp [hj, hjk]

/-- LIH, LIU and LIX (R127): 16 bits at a place, the bits below and above it kept. -/
theorem blendPiece_eq (k : Nat) (x : Word) (i : BitVec 16) : blend x (0xFFFF#64 <<< k) (i.setWidth 64 <<< k) =
    BitVec.ofNat 64 (x.toNat % 2 ^ k + i.toNat * 2 ^ k + x.toNat / 2 ^ (k + 16) * 2 ^ (k + 16)) := by
  have hsum : x.toNat % 2 ^ k + i.toNat * 2 ^ k + x.toNat / 2 ^ (k + 16) * 2 ^ (k + 16) =
      2 ^ k * (2 ^ 16 * (x.toNat / 2 ^ (k + 16)) + i.toNat) + x.toNat % 2 ^ k := by ring
  have hlow : x.toNat % 2 ^ k < 2 ^ k := Nat.mod_lt _ (Nat.two_pow_pos k)
  apply BitVec.eq_of_getLsbD_eq
  intro j hj
  rw [hsum, BitVec.getLsbD_ofNat, Nat.testBit_two_pow_mul_add _ hlow, Nat.testBit_two_pow_mul_add _ i.isLt, blend_getLsbD,
    pieceMask_getLsbD k j hj]
  by_cases hk : j < k
  · simp [hj, hk, Nat.testBit_mod_two_pow, BitVec.testBit_toNat]
  · by_cases h16 : j - k < 16
    · simp [hj, hk, h16, BitVec.testBit_toNat]
    · have hplace : j - k - 16 + (k + 16) = j := by omega
      simp [hj, hk, h16, Nat.testBit_div_two_pow, hplace, BitVec.testBit_toNat]

/-! Comparisons and predicate logic (R70, R128 to R130). -/

theorem allIf_eq_outcome (b : Bool) : allIf 64 b = outcome b := by cases b <;> rfl

/-- Equality and order of words are those of their values. -/
theorem condHolds_eq (c : Nat) (x y : BitVec n) : condHolds c n x y = specCond c x.toInt y.toInt x.toNat y.toNat := by
  have heq : (x == y) = decide (x.toNat = y.toNat) := decide_eq_decide.2 BitVec.toNat_eq
  have hand : (x &&& y == 0) = decide (x.toNat &&& y.toNat = 0) := by
    rw [beq_eq_decide, decide_eq_decide, BitVec.toNat_eq, BitVec.toNat_and]; rfl
  have hle (a b : Int) : decide (b ≤ a) = !decide (a < b) := by rw [← decide_not, decide_eq_decide, not_lt]
  have hleNat (a b : Nat) : decide (b ≤ a) = !decide (a < b) := by rw [← decide_not, decide_eq_decide, not_lt]
  match c with
  | 0 => exact heq
  | 1 => simp only [condHolds, specCond, bne, heq, decide_not]
  | 2 => rfl
  | 3 => exact (hle _ _).symm
  | 4 => rfl
  | 5 => exact (hle _ _).symm
  | 6 => rfl
  | 7 => exact (hleNat _ _).symm
  | 8 => rfl
  | 9 => exact (hleNat _ _).symm
  | 10 => simp only [condHolds, specCond, bne, hand, decide_not]
  | _ + 11 => exact hand

theorem plogOp_bits (o : Nat) (x y : Word) (i : Nat) (hi : i < 64) :
    (plogOp o x y).getLsbD i = specLogic o (x.getLsbD i) (y.getLsbD i) := by
  have hxnor (p q : Bool) : (!(p ^^ q)) = (p == q) := by cases p <;> cases q <;> rfl
  unfold plogOp specLogic
  split <;> simp only [BitVec.getLsbD_and, BitVec.getLsbD_or, BitVec.getLsbD_xor, BitVec.getLsbD_not, hi, decide_true, Bool.true_and, hxnor]

/-- A comparison's outcome (R128). -/
theorem cmpHolds_eq (c : Nat) (w : BitVec 1) (x y : Word) :
    (if w = 1 then condHolds c 32 (x.setWidth 32) (y.setWidth 32) else condHolds c 64 x y) = specCmp c w.toNat x y := by
  simp only [condHolds_eq, BitVec.toNat_setWidth]
  obtain rfl | rfl := w.eq_zero_or_eq_one <;> rfl

end Sys2Proof.Machine
end

section
/-! SUPPORT. Result writes leave the syllable's place in the program alone, so that one write or two, then the retirement, complete an instruction
as the statements ask. -/

namespace Sys2Proof.Machine

/-- Two states agree on the syllable in issue, on the place of its context in the program and on its task: all that retirement looks at (R35, R353). -/
structure KeepsPlace (s u : State) : Prop where
  cur       : u.cur = s.cur
  front     : u.cx.front = s.cx.front
  queue     : u.cx.queue = s.cx.queue
  task      : u.cx.task = s.cx.task
  entry     : u.cx.entry = s.cx.entry
  pc        : u.cx.pc = s.cx.pc
  redirects : u.cx.redirects = s.cx.redirects
  nulls     : u.cx.nulls = s.cx.nulls
  loop      : u.cx.loop = s.cx.loop
  syncs     : u.cx.syncs = s.cx.syncs
  late      : u.cx.late = s.cx.late

theorem KeepsPlace.refl (s : State) : KeepsPlace s s := ⟨rfl, rfl, rfl, rfl, rfl, rfl, rfl, rfl, rfl, rfl, rfl⟩

theorem KeepsPlace.trans {s u t : State} (h : KeepsPlace s u) (h' : KeepsPlace u t) : KeepsPlace s t :=
  ⟨h'.cur.trans h.cur, h'.front.trans h.front, h'.queue.trans h.queue, h'.task.trans h.task, h'.entry.trans h.entry, h'.pc.trans h.pc,
    h'.redirects.trans h.redirects, h'.nulls.trans h.nulls, h'.loop.trans h.loop, h'.syncs.trans h.syncs, h'.late.trans h.late⟩

theorem writeS_place (s : State) (d : BitVec 5) (lat : Nat) (v : Word) : KeepsPlace s (s.writeS d lat v) := by
  unfold State.writeS
  split
  · exact .refl s
  · refine ⟨rfl, ?_, ?_, ?_, ?_, ?_, ?_, ?_, ?_, ?_, ?_⟩ <;> rw [cx_modCx]

theorem writeP_place (s : State) (d : BitVec 4) (lat : Nat) (v : Word) : KeepsPlace s (s.writeP d lat v) := by
  unfold State.writeP
  split
  · exact .refl s
  · refine ⟨rfl, ?_, ?_, ?_, ?_, ?_, ?_, ?_, ?_, ?_, ?_⟩ <;> rw [cx_modCx]

/-- The queues and frontiers after an issue follow from those before it and the task. -/
theorem issued_prune_congr {x y : Ctx} (e : Nat) (sl : Slot) (hf : y.front = x.front) (hq : y.queue = x.queue) (ht : y.task = x.task) :
    ((y.issued e sl).prune).front = ((x.issued e sl).prune).front ∧ ((y.issued e sl).prune).queue = ((x.issued e sl).prune).queue := by
  unfold Ctx.prune Ctx.faulted Ctx.issued
  simp only [hf, hq, ht]
  split <;> exact ⟨rfl, rfl⟩

/-- A state at the same place advances the syllable in issue by its retirement. -/
theorem KeepsPlace.retire_advances {s u : State} (h : KeepsPlace s u) : Advances s u.retire := by
  have hctx := retire_ctx u
  rw [h.cur] at hctx
  obtain ⟨hfront, hqueue⟩ := issued_prune_congr s.cur.entry s.cur.slot h.front h.queue h.task
  obtain ⟨entry, pc, redirects, nulls, loop, syncs, late⟩ := issued_place u.cx s.cur.entry s.cur.slot
  unfold Advances
  rw [hctx]
  exact ⟨hfront, hqueue, entry.trans h.entry, pc.trans h.pc, redirects.trans h.redirects, nulls.trans h.nulls, loop.trans h.loop,
    syncs.trans h.syncs, late.trans h.late⟩

/-- An instruction that issues one scalar result and retires completes. -/
theorem issuesS_of_exec {i : Instr} {s : State} {d : BitVec 5} {lat : Nat} {v : Word}
    (h : exec i s = .next (s.writeS d lat v).retire) : IssuesS i s d lat v :=
  ⟨_, h, (writeS_retire s d lat v).1, (writeS_place s d lat v).retire_advances, (writeS_retire s d lat v).2⟩

/-- An instruction that issues one predicate result and retires completes. -/
theorem issuesP_of_exec {i : Instr} {s : State} {d : BitVec 4} {lat : Nat} {v : Word}
    (h : exec i s = .next (s.writeP d lat v).retire) : IssuesP i s d lat v :=
  ⟨_, h, (writeP_retire s d lat v).1, (writeP_place s d lat v).retire_advances, (writeP_retire s d lat v).2⟩

/-! Two predicate results (R128). -/

/-- Whether a predicate result is issued depends only on the syllable in issue and on that predicate before and after. -/
theorem WritesP.congr {s s' t t' : State} {d : BitVec 4} {lat : Nat} {v : Word} (h : WritesP s t d lat v) (hcur : s'.cur = s.cur)
    (hs : s'.cx.preg d.toNat = s.cx.preg d.toNat) (ht : (t'.ctx s.cur.ctx).preg d.toNat = (t.ctx s.cur.ctx).preg d.toNat) :
    WritesP s' t' d lat v := by
  unfold WritesP at h ⊢
  rw [hcur]
  split_ifs at h ⊢ with hd
  · subst d
    exact ht.trans (h.trans hs.symm)
  · rw [ht, h, hs]

/-- Two results for different predicates issue and their syllable retires. -/
theorem writeP_writeP_retire (s : State) {d e : BitVec 4} (lat lat' : Nat) (v v' : Word) (hde : d.toNat ≠ e.toNat) :
    let t := ((s.writeP d lat v).writeP e lat' v').retire
    WritesP s t d lat v ∧ WritesP s t e lat' v' ∧ Advances s t ∧ RegFrame s t [] [d.toNat, e.toNat] [] [] := by
  intro t
  have hcur := writeP_cur s d lat v
  obtain ⟨hfirst, -⟩ := writeP_retire s d lat v
  obtain ⟨hsecond, hframe⟩ := writeP_retire (s.writeP d lat v) e lat' v'
  have hd : (t.ctx s.cur.ctx).preg d.toNat = ((s.writeP d lat v).retire.ctx s.cur.ctx).preg d.toNat := by
    have h := hframe.regs.predicates d.toNat (by simpa using hde)
    have h' := (retire_frame (s.writeP d lat v)).regs.predicates d.toNat (by simp)
    rw [hcur] at h h'
    exact h.trans h'.symm
  have he : (s.writeP d lat v).cx.preg e.toNat = s.cx.preg e.toNat := by
    have h := (writeP_frame s d lat v).regs.predicates e.toNat (by simpa using hde.symm)
    rwa [← hcur] at h
  exact ⟨hfirst.congr rfl rfl hd, hsecond.congr hcur.symm he.symm rfl,
    ((writeP_place s d lat v).trans (writeP_place _ e lat' v')).retire_advances, (writeP_frame s d lat v).trans hframe hcur⟩

end Sys2Proof.Machine
end

section
/-! SUPPORT. What each scalar instruction of R121 to R130 does when its guard holds and nothing is outstanding to its operands. -/

namespace Sys2Proof.Machine

theorem saOp_of {f : (n : Nat) → BitVec n → BitVec n → BitVec n} {lat : Nat} {g d a b : BitVec 5} {w : BitVec 1} {s : State} {x y : Word}
    (hg : s.guardIs g true) (ha : s.hasS a x) (hb : s.hasS b y) :
    saOp f lat g d a b w s = (s.writeS d lat (atWidth f w x y)).retire := by
  rw [saOp, guard5_true hg, readS_of ha, readS_of hb, saResult_eq]

theorem siOp_of {f : Word → Word → Word} {lat : Nat} {d a : BitVec 5} {i : Word} {s : State} {x : Word} (ha : s.hasS a x) :
    siOp f lat d a i s = (s.writeS d lat (f x i)).retire := by
  rw [siOp, readS_of ha]

theorem extOp_of {signed : Bool} {g d a : BitVec 5} {sz : BitVec 2} {s : State} {x : Word} (hg : s.guardIs g true) (ha : s.hasS a x) :
    extOp signed g d a sz s = (s.writeS d 1 (if signed then BitVec.ofInt 64 (Int.bmod x.toNat (2 ^ szBits sz)) else
      BitVec.ofNat 64 (x.toNat % 2 ^ szBits sz))).retire := by
  rw [extOp, guard5_true hg, readS_of ha, sextWord_eq, zextWord_eq]

theorem pieceOp_of {k : Nat} {d : BitVec 5} {i : BitVec 16} {s : State} {x : Word} (hd : s.hasS d x) :
    pieceOp k d i s = (s.writeS d 1 (BitVec.ofNat 64
      (x.toNat % 2 ^ k + i.toNat * 2 ^ k + x.toNat / 2 ^ (k + 16) * 2 ^ (k + 16)))).retire := by
  rw [pieceOp, readS_of hd, blendPiece_eq]

/-- Every row of the table of two-operand instructions runs the shared operation with the row's bound and result. -/
theorem exec_saTable : ∀ e ∈ saTable, ∀ (g d a b : BitVec 5) (w : BitVec 1) (s : State),
    exec (e.1 g d a b w) s = .next (saOp e.2.2 e.2.1 g d a b w s) := by
  simp only [saTable, List.forall_mem_cons, List.not_mem_nil, false_imp_iff, implies_true, and_true, ← aluAdd_eq, ← aluSub_eq, ← aluAnd_eq,
    ← aluOr_eq, ← aluXor_eq, ← aluAndn_eq, ← aluShl_eq, ← aluShr_eq, ← aluSar_eq, ← aluMul_eq, ← aluMulh_eq, ← aluMulhz_eq, ← aluDiv_eq,
    ← aluDivz_eq, ← aluRem_eq, ← aluRemz_eq, ← aluMin_eq, ← aluMax_eq, ← aluMinz_eq, ← aluMaxz_eq]
  refine ⟨?_, ?_, ?_, ?_, ?_, ?_, ?_, ?_, ?_, ?_, ?_, ?_, ?_, ?_, ?_, ?_, ?_, ?_, ?_, ?_⟩ <;> exact fun _ _ _ _ _ _ => rfl

/-- Every row of the table of instructions with an 11-bit immediate takes it sign-extended (R126). -/
theorem exec_siTable : ∀ e ∈ siTable, ∀ (d a : BitVec 5) (i : BitVec 11) (s : State),
    exec (e.1 d a i) s = .next (siOp (e.2.2 64) e.2.1 d a (BitVec.ofInt 64 i.toInt) s) := by
  simp only [siTable, List.forall_mem_cons, List.not_mem_nil, false_imp_iff, implies_true, and_true, ← aluAdd_eq, ← aluAnd_eq, ← aluOr_eq,
    ← aluXor_eq, ← aluMul_eq]
  refine ⟨?_, ?_, ?_, ?_, ?_⟩ <;> exact fun _ _ _ _ => rfl

/-- Every row of the table of shifts takes its amount zero-extended (R126). -/
theorem exec_shTable : ∀ e ∈ shTable, ∀ (d a : BitVec 5) (k : BitVec 6) (s : State),
    exec (e.1 d a k) s = .next (siOp (e.2 64) 1 d a (BitVec.ofNat 64 k.toNat) s) := by
  simp only [shTable, List.forall_mem_cons, List.not_mem_nil, false_imp_iff, implies_true, and_true, ← aluShl_eq, ← aluShr_eq, ← aluSar_eq,
    BitVec.ofNat_toNat]
  refine ⟨?_, ?_, ?_⟩ <;> exact fun _ _ _ _ => rfl

/-- LIH, LIU and LIX place their 16 bits where the table says (R127). -/
theorem exec_slTable : ∀ e ∈ slTable, ∀ (d : BitVec 5) (i : BitVec 16) (s : State), exec (e.1 d i) s = .next (pieceOp e.2 d i s) := by
  simp only [slTable, List.forall_mem_cons, List.not_mem_nil, false_imp_iff, implies_true, and_true]
  refine ⟨?_, ?_, ?_⟩ <;> exact fun _ _ _ => rfl

theorem exec_clz (g d a : BitVec 5) (w : BitVec 1) (s : State) :
    exec (.clz g d a w) s = .next (saOp (fun n u _ => specClz n u) 1 g d a 0 w s) := by
  rw [← aluClz_eq]; rfl

theorem exec_popc (g d a : BitVec 5) (w : BitVec 1) (s : State) :
    exec (.popc g d a w) s = .next (saOp (fun n u _ => specPopc n u) 1 g d a 0 w s) := by
  rw [← aluPopc_eq]; rfl

theorem exec_sext (g d a : BitVec 5) (sz : BitVec 2) (s : State) : exec (.sext g d a sz) s = .next (extOp true g d a sz s) := rfl

theorem exec_zext (g d a : BitVec 5) (sz : BitVec 2) (s : State) : exec (.zext g d a sz) s = .next (extOp false g d a sz s) := rfl

/-- s0 reads as zero with nothing outstanding (R53). -/
theorem hasS_zero (s : State) : s.hasS 0 0 := rfl

section
variable {s : State} {a b : BitVec 5} {pa pb : BitVec 4} {x y u v : Word}

theorem exec_sadd_of (ha : s.hasS a x) (hb : s.hasS b y) (d : BitVec 5) (k : BitVec 2) :
    exec (.sadd d a b k) s = .next (s.writeS d 1 (BitVec.ofNat 64 (x.toNat * 2 ^ (k.toNat + 1) + y.toNat))).retire := by
  change execSadd d a b k s = _
  rw [execSadd, readS_of ha, readS_of hb, saddWord_eq]

theorem exec_lil (d : BitVec 5) (i : BitVec 16) (s : State) :
    exec (.lil d i) s = .next (s.writeS d 1 (BitVec.ofInt 64 i.toInt)).retire := rfl

theorem exec_sel_of (hp : s.hasP pa u) (ha : s.hasS a x) (hb : s.hasS b y) (d : BitVec 5) :
    exec (.sel d a b pa) s = .next (s.writeS d 1 (if u.getLsbD 0 then x else y)).retire := by
  change execSel d a b pa s = _
  rw [execSel, readP_of hp, readS_of ha, readS_of hb]

/-- MOVP with dir 0 moves a register to a predicate (R125). -/
theorem exec_movp_toPred_of (ha : s.hasS a x) (p : BitVec 4) : exec (.movp 0 a p) s = .next (s.writeP p 1 x).retire := by
  change execMovp 0 a p s = _
  rw [execMovp, if_pos rfl, readS_of ha]

/-- MOVP with dir 1 moves a predicate to a register (R125). -/
theorem exec_movp_toReg_of (hp : s.hasP pa u) (d : BitVec 5) : exec (.movp 1 d pa) s = .next (s.writeS d 1 u).retire := by
  change execMovp 1 d pa s = _
  rw [execMovp, if_neg (by decide), readP_of hp]

theorem exec_plog_of (hp : s.hasP pa u) (hq : s.hasP pb v) (d : BitVec 4) (o : BitVec 3) :
    exec (.plog d pa pb o) s = .next (s.writeP d 1 (plogOp o.toNat u v)).retire := by
  change execPlog d pa pb o s = _
  rw [execPlog, readP_of hp, readP_of hq]

theorem exec_cmpi_of (ha : s.hasS a x) (d : BitVec 4) (c : BitVec 3) (i : BitVec 9) :
    exec (.cmpi d c a i) s = .next (s.writeP d 1 (outcome (specCmp c.toNat 0 x (BitVec.ofInt 64 i.toInt)))).retire := by
  change execCmpi d c a i s = _
  rw [execCmpi, readS_of ha, allIf_eq_outcome, condHolds_eq]
  rfl

/-- CMP with dual = 0 writes one predicate (R128). -/
theorem exec_cmp_single_of (ha : s.hasS a x) (hb : s.hasS b y) (d c : BitVec 4) (w : BitVec 1) :
    exec (.cmp d c a b 0 w) s = .next (s.writeP d 1 (outcome (specCmp c.toNat w.toNat x y))).retire := by
  change execCmp d c a b 0 w s = _
  rw [execCmp, readS_of ha, readS_of hb, cmpHolds_eq, ← allIf_eq_outcome]
  rfl

/-- CMP with dual = 1 writes the complement to the next predicate (R128). -/
theorem exec_cmp_dual_of (ha : s.hasS a x) (hb : s.hasS b y) (d c : BitVec 4) (w : BitVec 1) :
    exec (.cmp d c a b 1 w) s = .next ((s.writeP d 1 (outcome (specCmp c.toNat w.toNat x y))).writeP (d + 1) 1
      (outcome (!specCmp c.toNat w.toNat x y))).retire := by
  change execCmp d c a b 1 w s = _
  rw [execCmp, readS_of ha, readS_of hb, cmpHolds_eq, ← allIf_eq_outcome, ← allIf_eq_outcome]
  rfl

end

/-- The next predicate of every predicate field but the last has the next number. -/
theorem toNat_nextPred {d : BitVec 4} (hd : d ≠ 15) : (d + 1).toNat = d.toNat + 1 := by
  bv_omega

end Sys2Proof.Machine
end

section
/-! The statements of the scalar register operations. -/

namespace Sys2Proof.Machine

/-- Settles O1: each row of the table runs one shared operation, whose result agrees with the row's. -/
theorem scalarOperationsWriteTheirResults : Obligations.ScalarOperationsWriteTheirResults := by
  intro e he g d a b w s x y hg ha hb
  exact issuesS_of_exec (by rw [exec_saTable e he, saOp_of hg ha hb])

/-- Settles O2: CLZ and POPC share the two-operand form with s0 as their second operand; the encodings hold by evaluation. -/
theorem scalarBitOperationsWriteTheirResults : Obligations.ScalarBitOperationsWriteTheirResults := by
  intro g d a b w sz k s x y ha hb
  refine ⟨fun hg => ⟨?clz, ?popc, ?sext, ?zext⟩, ?sadd, rfl, rfl, rfl⟩
  case clz => exact issuesS_of_exec (by rw [exec_clz, saOp_of hg ha (hasS_zero s)])
  case popc => exact issuesS_of_exec (by rw [exec_popc, saOp_of hg ha (hasS_zero s)])
  case sext => exact issuesS_of_exec (by rw [exec_sext, extOp_of hg ha]; rfl)
  case zext => exact issuesS_of_exec (by rw [exec_zext, extOp_of hg ha]; rfl)
  case sadd => exact issuesS_of_exec (exec_sadd_of ha hb d k)

/-- Settles O3: the immediate forms run the register operations on the extended immediate, and LIH, LIU and LIX blend their 16 bits in. -/
theorem immediatesWriteTheirResults : Obligations.ImmediatesWriteTheirResults := by
  intro d a s x ha
  refine ⟨fun e he i => ?_, fun e he k => ?_, fun i => issuesS_of_exec (exec_lil d i s), fun e he i => ?_, ?_, ?_⟩
  · exact issuesS_of_exec (by rw [exec_siTable e he, siOp_of ha])
  · exact issuesS_of_exec (by rw [exec_shTable e he, siOp_of ha])
  · exact issuesS_of_exec (by rw [exec_slTable e he, pieceOp_of ha])
  · simp only [List.forall_mem_cons, List.not_mem_nil, false_imp_iff, implies_true, and_true]
    exact ⟨fun _ => rfl, fun _ => rfl, fun _ => rfl, fun _ => rfl, fun _ => rfl⟩
  · simp only [List.forall_mem_cons, List.not_mem_nil, false_imp_iff, implies_true, and_true]
    exact ⟨fun _ => congrArg some BitVec.append_assoc, fun _ => congrArg some BitVec.append_assoc, fun _ => congrArg some BitVec.append_assoc⟩

/-- Settles O4: a comparison with dual = 1 writes two different predicates, since the field of the last one is left out. -/
theorem predicateInstructionsWriteTheirResults : Obligations.PredicateInstructionsWriteTheirResults := by
  intro d p pa pb a b r c c3 o w im s x y u v ha hb hu hv
  refine ⟨?cmp, fun hd => ?dual, ?cmpi, ⟨plogOp o.toNat u v, plogOp_bits o.toNat u v, ?plog⟩, ?sel, ?toPred, ?toReg, fun _ => rfl, rfl, rfl,
    rfl, fun _ => rfl⟩
  case cmp => exact issuesP_of_exec (exec_cmp_single_of ha hb d c w)
  case dual =>
    have hnext := toNat_nextPred hd
    have h := writeP_writeP_retire s (d := d) (e := d + 1) 1 1 (outcome (specCmp c.toNat w.toNat x y))
      (outcome (!specCmp c.toNat w.toNat x y)) (by omega)
    rw [hnext] at h
    exact ⟨_, exec_cmp_dual_of ha hb d c w, h⟩
  case cmpi => exact issuesP_of_exec (exec_cmpi_of ha d c3 im)
  case plog => exact issuesP_of_exec (exec_plog_of hu hv d o)
  case sel => exact issuesS_of_exec (exec_sel_of hu ha hb r)
  case toPred => exact issuesP_of_exec (exec_movp_toPred_of ha p)
  case toReg => exact issuesS_of_exec (exec_movp_toReg_of hu r)

end Sys2Proof.Machine
end
